-- ==== Sys2Proof/Word.lean ====
section
/-!
DEFINITION. The word types of AX25-CORE (spec/00_scope.md R12): a bit is a Bool, a byte has 8 bits, a register word
and a buffer address as a register holds it have 32.
-/

namespace Sys2Proof

/-- A byte of the buffer memory (R12: `u8`). -/
abbrev Byte := BitVec 8

/-- A 32-bit register word, command word or address operand (R12: `u32`). -/
abbrev Word := BitVec 32

/-- One bit as a vector of width `n`, zero-extended (R12: `zext_n` of a `u1`). -/
def zextBit (n : Nat) (b : Bool) : BitVec n := (BitVec.ofBool b).setWidth n

end Sys2Proof
end

