-- ==== Sys2Proof/Syntax.lean ====
section
/-!
DEFINITION. The commands of AX25-CORE: one constructor per row of spec/opcode_table.json (spec/30_encoding.md R82).
The operand `b` or `c` is the B bit of the command word (R83); the other operands come from ARG0..ARG2 (R88).
-/

namespace Sys2Proof

/-- One command (R82). -/
inductive Instr where
  /-- 0x1 (spec/40_crc.md R101) -/
  | crcCompute
  /-- 0x2 (spec/40_crc.md R102) -/
  | crcPut
  /-- 0x3 (spec/41_frame_assembler.md R121) -/
  | uiPrepare
  /-- 0x4 (spec/42_tx_engine.md R141) -/
  | txInit
  /-- 0x5 (spec/42_tx_engine.md R143); `b` is the logical bit -/
  | txBit (b : Bool)
  /-- 0x6 (spec/42_tx_engine.md R145) -/
  | txCheckStuffing
  /-- 0x7 (spec/42_tx_engine.md R149) -/
  | txNextBit
  /-- 0x8 (spec/43_rx_engine.md R181) -/
  | rxInit
  /-- 0x9 (spec/43_rx_engine.md R183); `c` is the channel bit -/
  | rxBit (c : Bool)
  /-- 0xA (spec/43_rx_engine.md R185); `c` is the channel bit -/
  | rxCheckStuffing (c : Bool)
  /-- 0xB (spec/43_rx_engine.md R190); `c` is the channel bit -/
  | rxNextBit (c : Bool)
  deriving DecidableEq, Repr

end Sys2Proof
end

