-- ==== Sys2Proof/WellFormed.lean ====
section
/-!
DEFINITION. Well-formed command words (spec/30_encoding.md R81, R82, R84) and the opcode table as rows.
A term of `Instr` is well-formed by its type, since the B operand is one bit; what can be ill-formed is the 32-bit word,
and the three checks below are the first three tests of R86, read as what a legal word satisfies.
-/

namespace Sys2Proof

/-- Field OP of a command word (R81). -/
def opField (w : Word) : BitVec 4 := w.extractLsb' 0 4

/-- Field RSV0 of a command word (R81). -/
def rsv0Field (w : Word) : BitVec 4 := w.extractLsb' 4 4

/-- Field B of a command word (R81). -/
def bField (w : Word) : Bool := w.getLsbD 8

/-- Field RSV1 of a command word (R81). -/
def rsv1Field (w : Word) : BitVec 23 := w.extractLsb' 9 23

/-- Check 1 (R84): RSV0 and RSV1 are 0. -/
def reservedBitsClear (w : Word) : Bool := rsv1Field w == 0 && rsv0Field w == 0

/-- Check 2 (R82): OP is none of the reserved opcodes 0x0 and 0xC..0xF. -/
def opcodeDefined (w : Word) : Bool := 1 ≤ (opField w).toNat && (opField w).toNat ≤ 11

/-- Whether a command takes the B operand (R81, R82). -/
def takesOperand (op : BitVec 4) : Bool := op == 0x5 || op == 0x9 || op == 0xA || op == 0xB

/-- Check 3 (R84): B is 0 unless the command takes it. -/
def operandAllowed (w : Word) : Bool := !bField w || takesOperand (opField w)

/-- A legal command word (R82, R84). -/
def commandWordWf (w : Word) : Bool := reservedBitsClear w && opcodeDefined w && operandAllowed w

/-- A row of spec/opcode_table.json: a word is the row's when it agrees with `pattern` in the bits of `mask`. -/
structure OpcodeRow where
  mnemonic : String
  mask     : Word
  pattern  : Word
  deriving DecidableEq, Repr

/-- Whether a word is a row's. -/
def OpcodeRow.holds (r : OpcodeRow) (w : Word) : Bool := w &&& r.mask == r.pattern

/-- spec/opcode_table.json, row by row. -/
def opcodeTable : List OpcodeRow :=
  [⟨"CRC_COMPUTE", 0xFFFFFFFF, 0x00000001⟩, ⟨"CRC_PUT", 0xFFFFFFFF, 0x00000002⟩,
   ⟨"UI_PREPARE", 0xFFFFFFFF, 0x00000003⟩, ⟨"TX_INIT", 0xFFFFFFFF, 0x00000004⟩,
   ⟨"TX_BIT", 0xFFFFFEFF, 0x00000005⟩, ⟨"TX_CHECK_STUFFING", 0xFFFFFFFF, 0x00000006⟩,
   ⟨"TX_NEXT_BIT", 0xFFFFFFFF, 0x00000007⟩, ⟨"RX_INIT", 0xFFFFFFFF, 0x00000008⟩,
   ⟨"RX_BIT", 0xFFFFFEFF, 0x00000009⟩, ⟨"RX_CHECK_STUFFING", 0xFFFFFEFF, 0x0000000A⟩,
   ⟨"RX_NEXT_BIT", 0xFFFFFEFF, 0x0000000B⟩]

/-- The mnemonic of a command, as the table spells it. -/
def Instr.mnemonic : Instr → String
  | .crcCompute => "CRC_COMPUTE"
  | .crcPut => "CRC_PUT"
  | .uiPrepare => "UI_PREPARE"
  | .txInit => "TX_INIT"
  | .txBit _ => "TX_BIT"
  | .txCheckStuffing => "TX_CHECK_STUFFING"
  | .txNextBit => "TX_NEXT_BIT"
  | .rxInit => "RX_INIT"
  | .rxBit _ => "RX_BIT"
  | .rxCheckStuffing _ => "RX_CHECK_STUFFING"
  | .rxNextBit _ => "RX_NEXT_BIT"

end Sys2Proof
end

