-- ==== Sys2Proof/Decode.lean ====
section
/-!
DEFINITION. The decoder of spec/30_encoding.md R86, total on every 32-bit word and rejecting by name, and after it the
encoder of R81 and R82. A command word is the data of one 32-bit register write (R80), so no byte order applies to it
(spec/20_memory.md R64, R65).
-/

namespace Sys2Proof

/-- Why a command word is illegal (R86's first three tests, in their order). -/
inductive DecodeError where
  /-- a 1 in RSV0 or RSV1 -/
  | reservedBits
  /-- OP is 0x0 or 0xC..0xF -/
  | reservedOpcode
  /-- B is 1 for a command that takes no B operand -/
  | strayOperand
  deriving DecidableEq, Repr

/-- The command a 4-bit opcode names, with its B operand (R82). -/
def commandOf (op : BitVec 4) (b : Bool) : Option Instr :=
  match op.toNat with
  | 0x1 => some .crcCompute
  | 0x2 => some .crcPut
  | 0x3 => some .uiPrepare
  | 0x4 => some .txInit
  | 0x5 => some (.txBit b)
  | 0x6 => some .txCheckStuffing
  | 0x7 => some .txNextBit
  | 0x8 => some .rxInit
  | 0x9 => some (.rxBit b)
  | 0xA => some (.rxCheckStuffing b)
  | 0xB => some (.rxNextBit b)
  | _ => none

/-- R86: the decode of a command word, its tests in the rule's order. -/
def decode (w : Word) : Except DecodeError Instr :=
  if rsv1Field w != 0 || rsv0Field w != 0 then .error .reservedBits
  else
    match commandOf (opField w) (bField w) with
    | none => .error .reservedOpcode
    | some i => if bField w && !takesOperand (opField w) then .error .strayOperand else .ok i

/-- The instruction the decoder reads from a table word of `nbits` bits, the bits above `nbits` being 0. There is one
format of 32 bits and no other length (R80). -/
def decodeTableWord (nbits w : Nat) : Option Instr :=
  if nbits ≤ 32 then (decode (BitVec.ofNat 32 (w % 2 ^ nbits))).toOption else none

/-- A command word from its fields (R81): OP in bits 3..0, B in bit 8, all other bits 0. -/
def commandWord (op : BitVec 4) (b : Bool) : Word := op.setWidth 32 ||| (zextBit 32 b <<< 8)

/-- The command word of a command (R82). -/
def encode : Instr → Word
  | .crcCompute => commandWord 0x1 false
  | .crcPut => commandWord 0x2 false
  | .uiPrepare => commandWord 0x3 false
  | .txInit => commandWord 0x4 false
  | .txBit b => commandWord 0x5 b
  | .txCheckStuffing => commandWord 0x6 false
  | .txNextBit => commandWord 0x7 false
  | .rxInit => commandWord 0x8 false
  | .rxBit c => commandWord 0x9 c
  | .rxCheckStuffing c => commandWord 0xA c
  | .rxNextBit c => commandWord 0xB c

end Sys2Proof
end

