-- ==== Sys2Proof/Config.lean ====
section
/-!
DEFINITION. The parameters of spec/00_scope.md R9, fixed at build time, and the free values: constants without a body for
what the spec leaves open (spec/93_implementation_defined.md section 1).
-/

namespace Sys2Proof

/-- FLAG (R9): the HDLC flag byte. -/
@[simp] abbrev Config.flag : Byte := 0x7E

/-- AX25_FRAME_MAX_SIZE, also the capacity of the receive buffer (R9). -/
@[simp] abbrev Config.frameMaxSize : Nat := 276

/-- INFO_MAX_SIZE (R9). -/
@[simp] abbrev Config.infoMaxSize : Nat := 256

/-- The bytes of a frame that are not info: two flags, header, FCS (R11: L = n + 20). -/
@[simp] abbrev Config.frameOverhead : Nat := 20

/-- CONTROL (R9): the UI frame's control byte. -/
@[simp] abbrev Config.control : Byte := 0x03

/-- PID (R9): no layer 3. -/
@[simp] abbrev Config.pid : Byte := 0xF0

/-- CRC_POLY, bit-reflected (R9). -/
@[simp] abbrev Config.crcPoly : BitVec 16 := 0x8408

/-- CRC_INIT (R9). -/
@[simp] abbrev Config.crcInit : BitVec 16 := 0xFFFF

/-- CRC_XOROUT (R9). -/
@[simp] abbrev Config.crcXorOut : BitVec 16 := 0xFFFF

/-- The reset value of CFG_PRE (R9, spec/10_state.md R30). -/
@[simp] abbrev Config.preambleDefault : BitVec 16 := 300

/-- The reset value of CFG_POST (R9, spec/10_state.md R31). -/
@[simp] abbrev Config.postambleDefault : BitVec 16 := 100

/-- 2^ADDR_W with ADDR_W = 32 (R9): the first address the memory does not have. -/
@[simp] abbrev Config.addressSpace : Nat := 4294967296

/-- The value of the ID register (spec/10_state.md R41). -/
@[simp] abbrev Config.idValue : Word := 0x41583235

/-- HDR_ADDR (R10), the fixed station pair: OPEN in the spec, so it has no body here (log entry 4). -/
opaque Config.hdrAddr : Fin 14 → Byte

/-- HDR_ADDR as the 14 bytes UI_PREPARE writes, in order (R9, R11). -/
def Config.hdrBytes : List Byte :=
  [hdrAddr 0, hdrAddr 1, hdrAddr 2, hdrAddr 3, hdrAddr 4, hdrAddr 5, hdrAddr 6,
   hdrAddr 7, hdrAddr 8, hdrAddr 9, hdrAddr 10, hdrAddr 11, hdrAddr 12, hdrAddr 13]

/-- CORE_BASE (spec/20_memory.md R60), where the register block lies for the host: OPEN (log entry 5). -/
opaque Config.coreBase : Nat

/-- CMD_LATENCY (spec/70_reset_and_hazards.md R283), how long a CMD write stalls: OPEN, and no rule depends on it
(log entry 5). -/
opaque Config.cmdLatency : Nat

/-- What a CORE read of a buffer byte is for; it tells two reads of one address in one command apart (log entry 6). -/
inductive ReadUse where
  /-- the CRC pass (spec/40_crc.md R101) -/
  | crc
  /-- the info copy (spec/41_frame_assembler.md R121) -/
  | copy
  /-- one data bit (spec/42_tx_engine.md R148) -/
  | txBit
  deriving DecidableEq, Repr

/-- FREE VALUE (spec/20_memory.md R72): what a CORE read returns of a byte that a third agent is writing, for the tick
of the command, the use of the read and the address (log entry 6). -/
opaque Config.freeByte : Nat → ReadUse → Nat → Byte

/-- FREE VALUE (spec/70_reset_and_hazards.md R284): whether a command's write to an address landed before the reset that
cut the command short, for the tick and the address (log entry 7). -/
opaque Config.freeLanded : Nat → Nat → Bool

end Sys2Proof
end

