-- ==== Sys2Proof/Machine/State.lean ====
section
/-!
DEFINITION. The state of AX25-CORE as plain data: every state variable of spec/10_state.md R23, the output port TX_LINE
(R47) and the buffer memory (spec/20_memory.md R61); beside them the model's own fields for the acts of the outside world.
The two directions are two records, as spec/10_state.md R50 makes their state private to each.
-/

namespace Sys2Proof.Machine

/-- TX_MODE (spec/10_state.md R42). -/
inductive TxMode where
  /-- 0, TX_OFF -/
  | off
  /-- 1, TX_DELAY_FLAG: preamble flags -/
  | delayFlag
  /-- 2, TX_DATA_MODE -/
  | data
  /-- 3, TX_TAIL_MODE: postamble flags -/
  | tail
  deriving DecidableEq, Repr

/-- RX_MODE (spec/10_state.md R43). -/
inductive RxMode where
  /-- 0, RX_OFF -/
  | off
  /-- 1, RX_FIRST_FLAG_MODE -/
  | firstFlag
  /-- 2, RX_FLAGS_MODE -/
  | flags
  /-- 3, RX_DATA_MODE -/
  | data
  deriving DecidableEq, Repr

/-- The transmit engine's variables (spec/10_state.md R32 to R36, R47). -/
structure Tx where
  /-- TX_MODE -/
  mode    : TxMode
  /-- TX_BITPOS -/
  bitpos  : BitVec 3
  /-- TX_ONES -/
  ones    : BitVec 3
  /-- TX_NRZI -/
  nrzi    : Bool
  /-- TX_LINE, also the output port -/
  line    : Bool
  /-- TX_IDX -/
  idx     : BitVec 9
  /-- TX_FLAGCNT -/
  flagcnt : BitVec 16
  /-- TX_SCR -/
  scr     : BitVec 17
  /-- TX_BASE -/
  base    : Word
  /-- TX_LEN -/
  len     : BitVec 9
  deriving DecidableEq, Repr

/-- The receive engine's variables (spec/10_state.md R37 to R40). -/
structure Rx where
  /-- RX_MODE -/
  mode   : RxMode
  /-- RX_BITPOS -/
  bitpos : BitVec 3
  /-- RX_ONES -/
  ones   : BitVec 3
  /-- RX_NRZI -/
  nrzi   : Bool
  /-- RX_IDX -/
  idx    : BitVec 9
  /-- RX_SCR -/
  scr    : BitVec 17
  /-- RX_BASE -/
  base   : Word
  /-- RX_ACC -/
  acc    : BitVec 8
  deriving DecidableEq, Repr

/-- STATUS (spec/10_state.md R29): three sticky error bits. -/
structure Status where
  /-- bit 0 -/
  illCmd : Bool
  /-- bit 1 -/
  argErr : Bool
  /-- bit 2 -/
  rxOvf  : Bool
  deriving DecidableEq, Repr

/-- The error conditions (spec/60_exceptions.md R244); the code of each is its STATUS bit number. -/
inductive ErrorCode where
  /-- R241: an illegal command word -/
  | illCmd
  /-- R242: an argument out of range -/
  | argErr
  /-- R243: the receive buffer is full -/
  | rxOvf
  deriving DecidableEq, Repr

/-- The registers of the register block (spec/10_state.md R23). -/
inductive Reg where
  | cmd | arg0 | arg1 | arg2 | resCore | resTx | resRx | status | cfgPre | cfgPost
  | txStat | txFlagcnt | txScr | txBase | txLen | rxStat | rxScr | rxBase | rxAcc | id
  deriving DecidableEq, Repr

/-- The width of a host access to the register block (spec/20_memory.md R65, spec/44_host_access.md R227). -/
inductive AccessWidth where
  /-- 8 bits -/
  | byte
  /-- 16 bits -/
  | halfword
  /-- 32 bits, the one width the register block supports -/
  | word
  /-- any other width, above 32 bits or between the named ones -/
  | other
  deriving DecidableEq, Repr

/-- One act of the outside world, which one step serves (log entry 1). Register offsets count from CORE_BASE
(spec/44_host_access.md R220). -/
inductive HostEvent where
  /-- a host read of the register block (R221) -/
  | regRead (width : AccessWidth) (offset : BitVec 8)
  /-- a host write to the register block (R222); a write to CMD issues a command -/
  | regWrite (width : AccessWidth) (offset : BitVec 8) (value : Word)
  /-- a load of a buffer byte by the host (spec/20_memory.md R71) -/
  | memRead (addr : Word)
  /-- a store to a buffer byte by the host or another agent (spec/20_memory.md R71) -/
  | memWrite (addr : Word) (value : Byte)
  /-- a third agent is writing this byte while the next command runs (spec/20_memory.md R72) -/
  | contend (addr : Word)
  /-- the reset input, between commands (spec/70_reset_and_hazards.md R270) -/
  | reset
  /-- a CMD write of this word, cut short by the reset input (spec/70_reset_and_hazards.md R284) -/
  | cmdCutByReset (value : Word)
  deriving DecidableEq, Repr

/-- The model's own record of the memory port's surroundings (log entry 6). -/
structure Bus where
  /-- the bytes a third agent is writing during the next command (spec/20_memory.md R72) -/
  contended : List Nat
  /-- the counter the free values are drawn with -/
  tick      : Nat
  deriving DecidableEq, Repr

/-- The buffer memory (spec/20_memory.md R61) as the cells that have a value, addresses strictly rising. -/
abbrev Memory := List Host.Cell

/-- The state of the machine. -/
structure State where
  /-- ARG0 -/
  arg0    : Word
  /-- ARG1 -/
  arg1    : Word
  /-- ARG2 -/
  arg2    : Word
  /-- RES_CORE -/
  resCore : Word
  /-- RES_TX -/
  resTx   : Bool
  /-- RES_RX -/
  resRx   : Bool
  /-- STATUS -/
  status  : Status
  /-- CFG_PRE -/
  cfgPre  : BitVec 16
  /-- CFG_POST -/
  cfgPost : BitVec 16
  /-- the transmit engine -/
  tx      : Tx
  /-- the receive engine -/
  rx      : Rx
  /-- the buffer memory -/
  mem     : Memory
  /-- the model's own: acts of the outside world still to be served, the next first (log entry 1) -/
  hostIn  : List HostEvent
  /-- the model's own: the values the host's reads returned, the latest first (log entry 2) -/
  hostOut : List Word
  /-- the model's own: the surroundings of the memory port (log entry 6) -/
  bus     : Bus
  deriving DecidableEq, Repr

/-- Why the machine stops. -/
inductive Fault where
  /-- Raised by a read of a buffer byte that nothing has written: by CRC_COMPUTE, CRC_PUT, UI_PREPARE, TX_NEXT_BIT and a
  host load. Safe: spec/20_memory.md R76 asks for it, since the model holds no value for such a byte (log entry 3). -/
  | unwrittenRead (addr : Nat)
  /-- Raised by an access at or above 2^ADDR_W: by TX_NEXT_BIT and RX_NEXT_BIT, only in states no run reaches, since
  spec/20_memory.md R69 says no command makes such an access. Safe (log entry 8). -/
  | addressOutOfRange (addr : Nat)
  deriving DecidableEq, Repr

/-- Why an instruction has no meaning here. -/
inductive Refusal where
  /-- Raised by `exec` for an instruction the model has not reached; no arm raises it now. Safe. -/
  | notModelled (mnemonic : String)
  deriving DecidableEq, Repr

/-- The transmit engine after reset (spec/10_state.md R23, R47). -/
def Tx.reset : Tx :=
  { mode := .off, bitpos := 0, ones := 0, nrzi := true, line := false, idx := 0, flagcnt := 0, scr := 0, base := 0,
    len := 0 }

/-- The receive engine after reset (spec/10_state.md R23). -/
def Rx.reset : Rx :=
  { mode := .off, bitpos := 0, ones := 0, nrzi := true, idx := 0, scr := 0, base := 0, acc := 0 }

/-- The machine right after reset (spec/70_reset_and_hazards.md R270, R271), with memory that nothing has written and
nothing queued. -/
def State.reset : State :=
  { arg0 := 0, arg1 := 0, arg2 := 0, resCore := 0, resTx := false, resRx := false,
    status := { illCmd := false, argErr := false, rxOvf := false },
    cfgPre := Config.preambleDefault, cfgPost := Config.postambleDefault,
    tx := Tx.reset, rx := Rx.reset, mem := [], hostIn := [], hostOut := [],
    bus := { contended := [], tick := 0 } }

end Sys2Proof.Machine
end

