-- ==== Sys2Proof/Machine/Ops.lean ====
section
/-!
DEFINITION. The named operations over memory and registers: the buffer memory in its one canonical form, the CORE's
memory port (spec/20_memory.md R61), raising an error condition and clearing it (spec/60_exceptions.md R240, R248), and the
reset event (spec/70_reset_and_hazards.md R270, R284).
-/

namespace Sys2Proof.Machine

/-! ## The buffer memory -/

/-- What an address reads as that memory does not list: no value (spec/20_memory.md R76; log entry 3). -/
def Memory.unlisted : Option Byte := none

/-- The byte at an address, if anything has written it. -/
def Memory.read : Memory → Nat → Option Byte
  | [], _ => unlisted
  | (b, v) :: rest, a => if a = b then some v else if a < b then unlisted else Memory.read rest a

/-- Write one byte, keeping addresses strictly rising. No value is removed, since no byte equals what an unlisted address
reads as. -/
def Memory.write : Memory → Nat → Byte → Memory
  | [], a, v => [(a, v)]
  | (b, w) :: rest, a, v =>
    if a < b then (a, v) :: (b, w) :: rest
    else if a = b then (a, v) :: rest
    else (b, w) :: Memory.write rest a v

/-- Every address of a memory is at least `lo`, below 2^ADDR_W, and the addresses strictly rise. -/
def Memory.risingFrom : Nat → Memory → Bool
  | _, [] => true
  | lo, (a, _) :: rest => lo ≤ a && a < Config.addressSpace && Memory.risingFrom (a + 1) rest

/-- The canonical form: strictly rising addresses below 2^ADDR_W. -/
def Memory.wf (m : Memory) : Bool := Memory.risingFrom 0 m

/-! ## The CORE's memory port -/

/-- MemRead(a, 1) (spec/00_scope.md R14, spec/20_memory.md R61): the byte at an address. A byte a third agent is writing
reads as any value (R72); a byte nothing has written is a fault (R76). -/
def busRead (bus : Bus) (use : ReadUse) (m : Memory) (a : Nat) : Except Fault Byte :=
  if a < Config.addressSpace then
    if bus.contended.contains a then .ok (Config.freeByte bus.tick use a)
    else
      match m.read a with
      | some v => .ok v
      | none => .error (.unwrittenRead a)
  else .error (.addressOutOfRange a)

/-- MemWrite(a, 1, v) (spec/00_scope.md R14, spec/20_memory.md R61). -/
def busWrite (m : Memory) (a : Nat) (v : Byte) : Except Fault Memory :=
  if a < Config.addressSpace then .ok (m.write a v) else .error (.addressOutOfRange a)

/-- Write bytes one at a time at rising addresses from `a`. -/
def writeSeq (m : Memory) (a : Nat) : List Byte → Except Fault Memory
  | [] => .ok m
  | v :: vs => do
    let m ← busWrite m a v
    writeSeq m (a + 1) vs

/-- After a command the bytes a third agent was writing are contended no more, and the next command draws other free
values (log entry 6). -/
def endCommand (s : State) : State := { s with bus := { contended := [], tick := s.bus.tick + 1 } }

/-! ## Error conditions: what this machine has in place of exceptions -/

/-- `raise E()` (spec/00_scope.md R14, spec/60_exceptions.md R240, R247): set the condition's STATUS bit. No control is
transferred, no state is saved and no mode changes. -/
def raiseError (e : ErrorCode) (s : State) : State :=
  match e with
  | .illCmd => { s with status := { s.status with illCmd := true } }
  | .argErr => { s with status := { s.status with argErr := true } }
  | .rxOvf => { s with status := { s.status with rxOvf := true } }

/-- What stands in place of the return from an exception (spec/60_exceptions.md R248): a host write of ones to STATUS
clears the bits it names (spec/44_host_access.md R224). -/
def clearStatus (v : Word) (s : State) : State :=
  { s with status :=
      { illCmd := s.status.illCmd && !v.getLsbD 0
        argErr := s.status.argErr && !v.getLsbD 1
        rxOvf := s.status.rxOvf && !v.getLsbD 2 } }

/-! ## The end of a command -/

/-- The outcome of a command whose accesses either went through or met a byte the model has no value for. -/
def finish : Except Fault State → Host.Outcome State Fault Refusal
  | .ok s => .next s
  | .error e => .fault e

/-- Apply a function to the state an outcome goes on in. -/
def onNext (f : State → State) : Host.Outcome State Fault Refusal → Host.Outcome State Fault Refusal
  | .next s => .next (f s)
  | .fault e => .fault e
  | .refused r => .refused r

/-! ## Reset -/

/-- The reset event (spec/70_reset_and_hazards.md R270): every variable of spec/10_state.md R23 and TX_LINE takes its reset
value; the buffer memory is not touched (R273), nor are the model's own records. -/
def resetCore (s : State) : State :=
  { State.reset with mem := s.mem, hostIn := s.hostIn, hostOut := s.hostOut, bus := s.bus }

/-- The memory after a command that took `old` to `new` was cut short by reset: any subset of its writes has landed
(spec/70_reset_and_hazards.md R284; log entry 7). -/
def cutMemory (tick : Nat) (old new : Memory) : Memory :=
  new.filterMap fun cell =>
    if old.read cell.1 = some cell.2 then some cell
    else if Config.freeLanded tick cell.1 then some cell
    else (old.read cell.1).map fun v => (cell.1, v)

end Sys2Proof.Machine
end

