-- ==== Sys2Proof/Machine/Flags.lean ====
section
/-!
DEFINITION. The condition bits a host reads (spec/10_state.md R51): the result bits of spec/30_encoding.md R90, and the
words STATUS, TX_STAT and RX_STAT pack their fields into (spec/10_state.md R29, R32, R37).
-/

namespace Sys2Proof.Machine

/-- A command's result bit goes to RES_TX (spec/30_encoding.md R90). -/
def setResTx (b : Bool) (s : State) : State := { s with resTx := b }

/-- A command's result bit goes to RES_RX (spec/30_encoding.md R90). -/
def setResRx (b : Bool) (s : State) : State := { s with resRx := b }

/-- A command's result goes to RES_CORE (spec/30_encoding.md R90). -/
def setResCore (v : Word) (s : State) : State := { s with resCore := v }

/-- The number of a TX mode (spec/10_state.md R42). -/
def txModeCode : TxMode → Word
  | .off => 0
  | .delayFlag => 1
  | .data => 2
  | .tail => 3

/-- The number of an RX mode (spec/10_state.md R43). -/
def rxModeCode : RxMode → Word
  | .off => 0
  | .firstFlag => 1
  | .flags => 2
  | .data => 3

/-- The word STATUS reads as (spec/44_host_access.md R221). -/
def statusWord (st : Status) : Word :=
  zextBit 32 st.rxOvf <<< 2 ||| zextBit 32 st.argErr <<< 1 ||| zextBit 32 st.illCmd

/-- The word TX_STAT reads as (spec/10_state.md R32). -/
def txStatWord (t : Tx) : Word :=
  t.idx.setWidth 32 <<< 16 ||| zextBit 32 t.line <<< 9 ||| zextBit 32 t.nrzi <<< 8 |||
    t.ones.setWidth 32 <<< 5 ||| t.bitpos.setWidth 32 <<< 2 ||| txModeCode t.mode

/-- The word RX_STAT reads as (spec/10_state.md R37). -/
def rxStatWord (r : Rx) : Word :=
  r.idx.setWidth 32 <<< 16 ||| zextBit 32 r.nrzi <<< 8 |||
    r.ones.setWidth 32 <<< 5 ||| r.bitpos.setWidth 32 <<< 2 ||| rxModeCode r.mode

end Sys2Proof.Machine
end

