-- ==== Sys2Proof/Machine/Operands.lean ====
section
/-!
DEFINITION. The operands of the commands: ARG0..ARG2 read as unsigned numbers (spec/30_encoding.md R83, R88), the argument
checks of R91, and the clamp of spec/41_frame_assembler.md R120.
-/

namespace Sys2Proof.Machine

/-- A buffer of `len` bytes at `base` lies below 2^ADDR_W; the sum is on unbounded integers (R91). -/
def rangeFits (base len : Nat) : Bool := base + len ≤ Config.addressSpace

/-- n of R120: the info length, ARG2 clamped to INFO_MAX_SIZE. -/
def infoLength (s : State) : Nat := min s.arg2.toNat Config.infoMaxSize

/-- L of R120: the length of the frame UI_PREPARE builds. -/
def frameLength (s : State) : Nat := infoLength s + Config.frameOverhead

/-- R91, the CRC_COMPUTE and CRC_PUT row: the check holds. -/
def crcArgsOk (s : State) : Bool :=
  3 ≤ s.arg1.toNat && s.arg1.toNat ≤ Config.frameMaxSize && rangeFits s.arg0.toNat s.arg1.toNat

/-- R91, the UI_PREPARE row: the check holds. -/
def uiArgsOk (s : State) : Bool :=
  rangeFits s.arg0.toNat (frameLength s) && rangeFits s.arg1.toNat (infoLength s)

/-- R91, the TX_INIT row: the check holds. -/
def txInitArgsOk (s : State) : Bool :=
  2 ≤ s.arg1.toNat && s.arg1.toNat ≤ Config.frameMaxSize && rangeFits s.arg0.toNat s.arg1.toNat

/-- R91, the RX_INIT row: the check holds. -/
def rxInitArgsOk (s : State) : Bool := rangeFits s.arg0.toNat Config.frameMaxSize

end Sys2Proof.Machine
end

