-- ==== Sys2Proof/Machine/Crc.lean ====
section
/-!
DEFINITION. The CRC Engine (spec/40_crc.md): CRC_COMPUTE and CRC_PUT.
-/

namespace Sys2Proof.Machine

/-- One bit of R100's loop. -/
def crcBit (crc : BitVec 16) (x : Bool) : BitVec 16 :=
  if (crc.getLsbD 0 ^^ x) = true then (crc >>> 1) ^^^ Config.crcPoly else crc >>> 1

/-- The bits of a byte in channel order, the least significant first (spec/00_scope.md R13). -/
def byteBits (x : Byte) : List Bool :=
  [x.getLsbD 0, x.getLsbD 1, x.getLsbD 2, x.getLsbD 3, x.getLsbD 4, x.getLsbD 5, x.getLsbD 6, x.getLsbD 7]

/-- CrcByte (R100): fold one byte into the running register, least significant bit first. -/
def crcByte (crc : BitVec 16) (x : Byte) : BitVec 16 := (byteBits x).foldl crcBit crc

/-- R101's loop over `n` bytes at rising addresses from `a`. -/
def crcLoop (bus : Bus) (m : Memory) : Nat → Nat → BitVec 16 → Except Fault (BitVec 16)
  | 0, _, crc => .ok crc
  | n + 1, a, crc => do
    let x ← busRead bus .crc m a
    crcLoop bus m n (a + 1) (crcByte crc x)

/-- The computation of R101 over a buffer of length `len` at `a`: bytes 1..L-4. -/
def frameCrc (bus : Bus) (m : Memory) (a len : Nat) : Except Fault (BitVec 16) := do
  let crc ← crcLoop bus m (len - 4) (a + 1) Config.crcInit
  .ok (crc ^^^ Config.crcXorOut)

/-- The computation and the two stores of R102, low byte first. -/
def crcPut (bus : Bus) (m : Memory) (a len : Nat) : Except Fault (Memory × BitVec 16) := do
  let crc ← frameCrc bus m a len
  let m ← busWrite m (a + len - 3) (crc.extractLsb' 0 8)
  let m ← busWrite m (a + len - 2) (crc.extractLsb' 8 8)
  .ok (m, crc)

/-- CRC_COMPUTE (R101). -/
def execCrcCompute (s : State) : Host.Outcome State Fault Refusal :=
  if crcArgsOk s then
    finish do
      let crc ← frameCrc s.bus s.mem s.arg0.toNat s.arg1.toNat
      .ok (setResCore (crc.setWidth 32) s)
  else .next (raiseError .argErr s)

/-- CRC_PUT (R102). -/
def execCrcPut (s : State) : Host.Outcome State Fault Refusal :=
  if crcArgsOk s then
    finish do
      let (m, crc) ← crcPut s.bus s.mem s.arg0.toNat s.arg1.toNat
      .ok (setResCore (crc.setWidth 32) { s with mem := m })
  else .next (raiseError .argErr s)

end Sys2Proof.Machine
end

