-- ==== Sys2Proof/Machine/FrameAssembler.lean ====
section
/-!
DEFINITION. The Frame Assembler (spec/41_frame_assembler.md): UI_PREPARE.
-/

namespace Sys2Proof.Machine

/-- R121's info copy: `n` bytes from `src` to `dst`, one at a time in increasing order, each read as memory stands then
(R122). -/
def copyLoop (bus : Bus) : Nat → Nat → Nat → Memory → Except Fault Memory
  | 0, _, _, m => .ok m
  | n + 1, src, dst, m => do
    let x ← busRead bus .copy m src
    let m ← busWrite m dst x
    copyLoop bus n (src + 1) (dst + 1) m

/-- R121's writes before the info copy: the opening flag, the closing flag, HDR_ADDR, control and PID. -/
def writeEnvelope (m : Memory) (d len : Nat) : Except Fault Memory := do
  let m ← busWrite m d Config.flag
  let m ← busWrite m (d + len - 1) Config.flag
  let m ← writeSeq m (d + 1) Config.hdrBytes
  let m ← busWrite m (d + 15) Config.control
  busWrite m (d + 16) Config.pid

/-- R121's accesses in order, for frame base `d`, info base `src` and info length `n`. -/
def assembleFrame (bus : Bus) (m : Memory) (d src n : Nat) : Except Fault Memory := do
  let m ← writeEnvelope m d (n + Config.frameOverhead)
  let m ← copyLoop bus n src (d + 17) m
  let (m, _) ← crcPut bus m d (n + Config.frameOverhead)
  .ok m

/-- UI_PREPARE (R121). -/
def execUiPrepare (s : State) : Host.Outcome State Fault Refusal :=
  if uiArgsOk s then
    finish do
      let m ← assembleFrame s.bus s.mem s.arg0.toNat s.arg1.toNat (infoLength s)
      .ok (setResCore (BitVec.ofNat 32 (frameLength s)) { s with mem := m })
  else .next (raiseError .argErr s)

end Sys2Proof.Machine
end

