-- ==== Sys2Proof/Machine/TxEngine.lean ====
section
/-!
DEFINITION. The Transmit Bit Engine (spec/42_tx_engine.md): TX_INIT, TX_BIT, TX_CHECK_STUFFING and TX_NEXT_BIT.
-/

namespace Sys2Proof.Machine

/-- FlagCount (R142): max(1, ceil(v / 8)) whole flag bytes. -/
def flagCount (v : BitVec 16) : BitVec 16 := BitVec.ofNat 16 (max 1 ((v.toNat + 7) / 8))

/-- The taps of a scrambler register, bits 11 and 16 (R143, spec/00_scope.md R9). -/
def scramblerTaps (scr : BitVec 17) : Bool := scr.getLsbD 11 ^^ scr.getLsbD 16

/-- A scrambler register shifted left by one, the new bit entering at bit 0 (R143). -/
def scramblerShift (scr : BitVec 17) (b : Bool) : BitVec 17 := (scr <<< 1) ||| zextBit 17 b

/-- The line-level bit of a logical bit (R143): a 0 toggles, a 1 does not. -/
def nrziEncode (nrzi b : Bool) : Bool := if b then nrzi else !nrzi

/-- EmitBit (R143): the emitted line bit is the new TX_LINE. -/
def emitBit (b : Bool) (t : Tx) : Tx :=
  let nrzi := nrziEncode t.nrzi b
  let line := nrzi ^^ scramblerTaps t.scr
  { t with nrzi := nrzi, line := line, scr := scramblerShift t.scr line }

/-- CheckStuffing (R145): the engine after it, and whether a stuffed zero was sent. -/
def txCheckStuffing (t : Tx) : Tx × Bool :=
  if t.ones = 5 then ({ emitBit false t with ones := 0 }, true) else (t, false)

/-- FlagStep (R147): the engine after it, and the bit it returns. -/
def flagStep (t : Tx) : Tx × Bool :=
  let t := emitBit (Config.flag.getLsbD t.bitpos.toNat) t
  let t := { t with bitpos := t.bitpos + 1 }
  if t.bitpos = 0 then
    let t := { t with flagcnt := t.flagcnt - 1 }
    if t.flagcnt = 0 then
      if t.mode = .delayFlag then ({ t with mode := .data, idx := 1, ones := 0 }, true)
      else ({ t with mode := .off }, false)
    else (t, true)
  else (t, true)

/-- R148's last part: send data bit `b`, count it and advance; TX_IDX advances when TX_BITPOS returns to 0. -/
def sendDataBit (b : Bool) (t : Tx) : Tx :=
  { emitBit b t with
    ones := if b then t.ones + 1 else 0
    bitpos := t.bitpos + 1
    idx := if t.bitpos + 1 = 0 then t.idx + 1 else t.idx }

/-- R148's middle part: the entry to TX_TAIL_MODE, where CFG_POST is read (R154). -/
def enterTail (cfgPost : BitVec 16) (t : Tx) : Tx :=
  { t with mode := .tail, bitpos := 0, flagcnt := flagCount cfgPost }

/-- DataStep (R148). The end test `TX_IDX >= TX_LEN - 1` is on integers (log entry 9). -/
def txDataStep (bus : Bus) (m : Memory) (cfgPost : BitVec 16) (t : Tx) : Except Fault (Tx × Bool) :=
  match txCheckStuffing t with
  | (t, true) => .ok (t, true)
  | (t, false) =>
    if t.len.toNat ≤ t.idx.toNat + 1 then .ok (flagStep (enterTail cfgPost t))
    else do
      let x ← busRead bus .txBit m (t.base.toNat + t.idx.toNat)
      .ok (sendDataBit (x.getLsbD t.bitpos.toNat) t, true)

/-- R149's case on the mode. -/
def txNextBit (bus : Bus) (m : Memory) (cfgPost : BitVec 16) (t : Tx) : Except Fault (Tx × Bool) :=
  match t.mode with
  | .off => .ok (t, false)
  | .delayFlag => .ok (flagStep t)
  | .tail => .ok (flagStep t)
  | .data => txDataStep bus m cfgPost t

/-- The engine TX_INIT starts with buffer base `a`, length `len` and CFG_PRE (R141). -/
def txStart (a len : Word) (cfgPre : BitVec 16) (t : Tx) : Tx :=
  { t with mode := .delayFlag, bitpos := 0, idx := 0, ones := 0, nrzi := true, flagcnt := flagCount cfgPre, base := a,
           len := len.setWidth 9 }

/-- TX_INIT (R141). -/
def execTxInit (s : State) : Host.Outcome State Fault Refusal :=
  if txInitArgsOk s then .next { s with tx := txStart s.arg0 s.arg1 s.cfgPre s.tx }
  else .next (raiseError .argErr s)

/-- TX_BIT (R143). -/
def execTxBit (b : Bool) (s : State) : Host.Outcome State Fault Refusal :=
  let t := emitBit b s.tx
  .next (setResTx t.line { s with tx := t })

/-- TX_CHECK_STUFFING (R145). -/
def execTxCheckStuffing (s : State) : Host.Outcome State Fault Refusal :=
  let (t, sent) := txCheckStuffing s.tx
  .next (setResTx sent { s with tx := t })

/-- TX_NEXT_BIT (R149). -/
def execTxNextBit (s : State) : Host.Outcome State Fault Refusal :=
  finish do
    let (t, more) ← txNextBit s.bus s.mem s.cfgPost s.tx
    .ok (setResTx more { s with tx := t })

end Sys2Proof.Machine
end

