-- ==== Sys2Proof/Machine/RxEngine.lean ====
section
/-!
DEFINITION. The Receive Bit Engine (spec/43_rx_engine.md): RX_INIT, RX_BIT, RX_CHECK_STUFFING and RX_NEXT_BIT.
-/

namespace Sys2Proof.Machine

/-- The descrambled bit of a channel bit (R183). -/
def descramble (c : Bool) (r : Rx) : Bool := c ^^ scramblerTaps r.scr

/-- DecodeBit (R183): the engine after it, the raw channel bit fed back. -/
def decodeBit (c : Bool) (r : Rx) : Rx :=
  { r with nrzi := descramble c r, scr := scramblerShift r.scr c }

/-- DecodeBit's result (R183): 1 when the descrambled bit equals the one before. -/
def decodedBit (c : Bool) (r : Rx) : Bool := descramble c r == r.nrzi

/-- Accumulate (R184): the new bit enters at bit 7. -/
def accumulate (d : Bool) (r : Rx) : Rx := { r with acc := (r.acc >>> 1) ||| (zextBit 8 d <<< 7) }

/-- RxReset (R181): RX_BASE and RX_SCR are kept. -/
def rxReset (r : Rx) : Rx :=
  { r with mode := .firstFlag, bitpos := 0, idx := 0, ones := 0, acc := 0, nrzi := true }

/-- CheckUnstuff (R185): the engine after it, and whether the bit was a stuffed zero. -/
def checkUnstuff (c : Bool) (r : Rx) : Rx × Bool :=
  if decodedBit c r then (decodeBit c r, false) else ({ decodeBit c r with ones := 0 }, true)

/-- RxStore (R191): the state after it, and whether the byte was stored; a full buffer sets RX_OVF and
resynchronises. -/
def rxStore (v : Byte) (s : State) : Except Fault (State × Bool) :=
  if Config.frameMaxSize ≤ s.rx.idx.toNat then
    .ok ({ raiseError .rxOvf s with rx := rxReset s.rx }, false)
  else do
    let m ← busWrite s.mem (s.rx.base.toNat + s.rx.idx.toNat) v
    .ok ({ s with mem := m }, true)

/-- FirstFlagStep (R186). -/
def firstFlagStep (c : Bool) (s : State) : Except Fault (State × Bool) :=
  let s := { s with rx := accumulate (decodedBit c s.rx) (decodeBit c s.rx) }
  if s.rx.acc = Config.flag then do
    let (s, _) ← rxStore Config.flag s
    .ok ({ s with rx := { s.rx with idx := 1, bitpos := 0, mode := .flags } }, true)
  else .ok (s, true)

/-- FlagsStep (R187). -/
def flagsStep (c : Bool) (s : State) : Except Fault (State × Bool) :=
  let r := accumulate (decodedBit c s.rx) (decodeBit c s.rx)
  let s := { s with rx := { r with bitpos := r.bitpos + 1 } }
  if s.rx.bitpos = 0 ∧ s.rx.acc ≠ Config.flag then do
    let (s, _) ← rxStore s.rx.acc s
    .ok ({ s with rx := { s.rx with idx := 2, ones := 0, mode := .data } }, true)
  else .ok (s, true)

/-- R188 with a stuffing check pending (RX_ONES = 5). -/
def rxCheckedStep (c : Bool) (s : State) : Except Fault (State × Bool) :=
  let (r, stuffed) := checkUnstuff c s.rx
  let s := { s with rx := r }
  if stuffed then .ok (s, true)
  else do
    let (s, stored) ← rxStore Config.flag s
    if stored then .ok ({ s with rx := { s.rx with mode := .off } }, false) else .ok (s, true)

/-- R188 with no stuffing check pending. -/
def rxPlainStep (c : Bool) (s : State) : Except Fault (State × Bool) :=
  let d := decodedBit c s.rx
  let r := accumulate d (decodeBit c s.rx)
  let r := { r with ones := if d then r.ones + 1 else 0 }
  let s := { s with rx := { r with bitpos := r.bitpos + 1 } }
  if s.rx.bitpos = 0 then do
    let (s, stored) ← rxStore s.rx.acc s
    if stored then .ok ({ s with rx := { s.rx with idx := s.rx.idx + 1 } }, true) else .ok (s, true)
  else .ok (s, true)

/-- DataStep (R188). -/
def rxDataStep (c : Bool) (s : State) : Except Fault (State × Bool) :=
  if s.rx.ones = 5 then rxCheckedStep c s else rxPlainStep c s

/-- R190's case on the mode. -/
def rxNextBit (c : Bool) (s : State) : Except Fault (State × Bool) :=
  match s.rx.mode with
  | .off => .ok ({ s with rx := decodeBit c s.rx }, true)
  | .firstFlag => firstFlagStep c s
  | .flags => flagsStep c s
  | .data => rxDataStep c s

/-- RX_INIT (R181). -/
def execRxInit (s : State) : Host.Outcome State Fault Refusal :=
  if rxInitArgsOk s then .next { s with rx := { rxReset s.rx with base := s.arg0 } }
  else .next (raiseError .argErr s)

/-- RX_BIT (R183). -/
def execRxBit (c : Bool) (s : State) : Host.Outcome State Fault Refusal :=
  .next (setResRx (decodedBit c s.rx) { s with rx := decodeBit c s.rx })

/-- RX_CHECK_STUFFING (R185). -/
def execRxCheckStuffing (c : Bool) (s : State) : Host.Outcome State Fault Refusal :=
  let (r, stuffed) := checkUnstuff c s.rx
  .next (setResRx stuffed { s with rx := r })

/-- RX_NEXT_BIT (R190). -/
def execRxNextBit (c : Bool) (s : State) : Host.Outcome State Fault Refusal :=
  finish do
    let (s, receiving) ← rxNextBit c s
    .ok (setResRx receiving s)

end Sys2Proof.Machine
end

