-- ==== Sys2Proof/Machine/Dispatch.lean ====
section
/-!
DEFINITION. The dispatch of a command to its meaning (spec/30_encoding.md R82), one arm per constructor.
-/

namespace Sys2Proof.Machine

def exec (i : Instr) (s : State) : Host.Outcome State Fault Refusal :=
  match i with
  | .crcCompute => Sys2Proof.Machine.execCrcCompute s
  | .crcPut => Sys2Proof.Machine.execCrcPut s
  | .uiPrepare => Sys2Proof.Machine.execUiPrepare s
  | .txInit => Sys2Proof.Machine.execTxInit s
  | .txBit b => Sys2Proof.Machine.execTxBit b s
  | .txCheckStuffing => Sys2Proof.Machine.execTxCheckStuffing s
  | .txNextBit => Sys2Proof.Machine.execTxNextBit s
  | .rxInit => Sys2Proof.Machine.execRxInit s
  | .rxBit c => Sys2Proof.Machine.execRxBit c s
  | .rxCheckStuffing c => Sys2Proof.Machine.execRxCheckStuffing c s
  | .rxNextBit c => Sys2Proof.Machine.execRxNextBit c s

end Sys2Proof.Machine
end

