-- ==== Sys2Proof/Machine/HostPort.lean ====
section
/-!
DEFINITION. The acts of the outside world, one by one: host reads and writes of the register block
(spec/44_host_access.md R220 to R228), the issue of a command (spec/30_encoding.md R85 to R87), host loads and stores of
buffer memory (spec/20_memory.md R71), contention (R72) and reset (spec/70_reset_and_hazards.md R270, R284). And the host
notation of spec/30_encoding.md R92 and R93.
-/

namespace Sys2Proof.Machine

/-- The register at a byte offset (spec/10_state.md R23, spec/20_memory.md R62). Misaligned and unmapped offsets have
none. -/
def regAt (o : BitVec 8) : Option Reg :=
  match o.toNat with
  | 0x00 => some .cmd
  | 0x04 => some .arg0
  | 0x08 => some .arg1
  | 0x0C => some .arg2
  | 0x10 => some .resCore
  | 0x14 => some .resTx
  | 0x18 => some .resRx
  | 0x1C => some .status
  | 0x20 => some .cfgPre
  | 0x24 => some .cfgPost
  | 0x28 => some .txStat
  | 0x2C => some .txFlagcnt
  | 0x30 => some .txScr
  | 0x34 => some .txBase
  | 0x38 => some .txLen
  | 0x3C => some .rxStat
  | 0x40 => some .rxScr
  | 0x44 => some .rxBase
  | 0x48 => some .rxAcc
  | 0x4C => some .id
  | _ => none

/-- The value a register reads as (spec/44_host_access.md R221). -/
def regValue (s : State) : Reg → Word
  | .cmd => 0
  | .arg0 => s.arg0
  | .arg1 => s.arg1
  | .arg2 => s.arg2
  | .resCore => s.resCore
  | .resTx => zextBit 32 s.resTx
  | .resRx => zextBit 32 s.resRx
  | .status => statusWord s.status
  | .cfgPre => s.cfgPre.setWidth 32
  | .cfgPost => s.cfgPost.setWidth 32
  | .txStat => txStatWord s.tx
  | .txFlagcnt => s.tx.flagcnt.setWidth 32
  | .txScr => s.tx.scr.setWidth 32
  | .txBase => s.tx.base
  | .txLen => s.tx.len.setWidth 32
  | .rxStat => rxStatWord s.rx
  | .rxScr => s.rx.scr.setWidth 32
  | .rxBase => s.rx.base
  | .rxAcc => s.rx.acc.setWidth 32
  | .id => Config.idValue

/-- The value a host read returns (spec/44_host_access.md R221, R227). -/
def hostReadValue (width : AccessWidth) (o : BitVec 8) (s : State) : Word :=
  match width with
  | .word =>
    match regAt o with
    | some r => regValue s r
    | none => 0
  | .byte => 0
  | .halfword => 0
  | .other => 0

/-- Issue a command word (spec/30_encoding.md R85, R86): decode it and run its command; an illegal word sets
STATUS.ILL_CMD and does nothing else (R87). -/
def issue (w : Word) (s : State) : Host.Outcome State Fault Refusal :=
  match decode w with
  | .ok i => exec i s
  | .error _ => .next (raiseError .illCmd s)

/-- The effect of a word write to a register (spec/44_host_access.md R222 to R226). -/
def regWriteEffect (r : Reg) (v : Word) (s : State) : Host.Outcome State Fault Refusal :=
  match r with
  | .cmd => onNext endCommand (issue v s)
  | .arg0 => .next { s with arg0 := v }
  | .arg1 => .next { s with arg1 := v }
  | .arg2 => .next { s with arg2 := v }
  | .status => .next (clearStatus v s)
  | .cfgPre => .next { s with cfgPre := v.setWidth 16 }
  | .cfgPost => .next { s with cfgPost := v.setWidth 16 }
  | .resCore | .resTx | .resRx | .txStat | .txFlagcnt | .txScr | .txBase | .txLen | .rxStat | .rxScr | .rxBase | .rxAcc
  | .id => .next s

/-- A host write to the register block (spec/44_host_access.md R222, R227). -/
def hostWrite (width : AccessWidth) (o : BitVec 8) (v : Word) (s : State) : Host.Outcome State Fault Refusal :=
  match width with
  | .word =>
    match regAt o with
    | some r => regWriteEffect r v s
    | none => .next s
  | .byte => .next s
  | .halfword => .next s
  | .other => .next s

/-- The host receives the value of a read. -/
def returnToHost (v : Word) (s : State) : State := { s with hostOut := v :: s.hostOut }

/-- A load of a buffer byte by the host (spec/20_memory.md R71). -/
def hostLoad (a : Word) (s : State) : Host.Outcome State Fault Refusal :=
  match s.mem.read a.toNat with
  | some v => .next (returnToHost (v.setWidth 32) s)
  | none => .fault (.unwrittenRead a.toNat)

/-- A store to a buffer byte by the host or another agent (spec/20_memory.md R71). -/
def hostStore (a : Word) (v : Byte) (s : State) : State := { s with mem := s.mem.write a.toNat v }

/-- A third agent is writing this byte while the next command runs (spec/20_memory.md R72). -/
def contendByte (a : Word) (s : State) : State :=
  { s with bus := { s.bus with contended := a.toNat :: s.bus.contended } }

/-- The state after reset cut short the command that took `s` to `t` (spec/70_reset_and_hazards.md R284). -/
def afterCut (s t : State) : State :=
  endCommand (resetCore { s with mem := cutMemory s.bus.tick s.mem t.mem })

/-- Serve one act of the outside world. -/
def serve (e : HostEvent) (s : State) : Host.Outcome State Fault Refusal :=
  match e with
  | .regRead width o => .next (returnToHost (hostReadValue width o s) s)
  | .regWrite width o v => hostWrite width o v s
  | .memRead a => hostLoad a s
  | .memWrite a v => .next (hostStore a v s)
  | .contend a => .next (contendByte a s)
  | .reset => .next (resetCore s)
  | .cmdCutByReset v => onNext (afterCut s) (issue v s)

/-- One step: serve the next act of the outside world; the CORE does nothing between commands
(spec/60_exceptions.md R256), so with none queued nothing changes. -/
def serveNext (s : State) : Host.Outcome State Fault Refusal :=
  match s.hostIn with
  | [] => .next s
  | e :: rest => serve e { s with hostIn := rest }

/-- A write of command word `v` to CMD, queued as the next act (spec/30_encoding.md R85). -/
def queueCommand (v : Word) (s : State) : State := { s with hostIn := .regWrite .word 0x00 v :: s.hostIn }

/-! ## The host notation (spec/30_encoding.md R92, R93) -/

/-- `wr o, v` -/
def wr (o : BitVec 8) (v : Word) : HostEvent := .regWrite .word o v

/-- `rd o` -/
def rd (o : BitVec 8) : HostEvent := .regRead .word o

/-- A command mnemonic alone. -/
def cmd (i : Instr) : HostEvent := wr 0x00 (encode i)

/-- `CRC_COMPUTE a, l` -/
def crcComputeAt (a l : Word) : List HostEvent := [wr 0x04 a, wr 0x08 l, cmd .crcCompute]

/-- `CRC_PUT a, l` -/
def crcPutAt (a l : Word) : List HostEvent := [wr 0x04 a, wr 0x08 l, cmd .crcPut]

/-- `UI_PREPARE d, s, n` -/
def uiPrepareAt (d s n : Word) : List HostEvent := [wr 0x04 d, wr 0x08 s, wr 0x0C n, cmd .uiPrepare]

/-- `TX_INIT a, l` -/
def txInitAt (a l : Word) : List HostEvent := [wr 0x04 a, wr 0x08 l, cmd .txInit]

/-- `RX_INIT a` -/
def rxInitAt (a : Word) : List HostEvent := [wr 0x04 a, cmd .rxInit]

/-- `CLR_STATUS` -/
def clrStatus : List HostEvent := [wr 0x1C 0x00000007]

end Sys2Proof.Machine
end

