-- ==== Sys2Proof/Machine/Step.lean ====
section
/-!
DEFINITION. One step of the machine. The CORE has no program counter and fetches nothing (spec/10_state.md R22); a command
arrives as the data of a host write to CMD, the next entry of `hostIn` (log entry 1).
-/

namespace Sys2Proof.Machine

/-- One step: one act of the outside world is served. -/
def step (s : State) : Host.Outcome State Fault Refusal := serveNext s

/-- `s` with the command word `w` placed where the next step takes its command: a write to CMD at the head of the queue.
The bits above `nbits` are 0. -/
def State.withFetchWord (s : State) (nbits w : Nat) : State := queueCommand (BitVec.ofNat 32 (w % 2 ^ nbits)) s

end Sys2Proof.Machine
end

