-- ==== Sys2Proof/Safety.lean ====
section
/-!
DEFINITION. The terms claims are stated in: the invariants of spec/10_state.md R44 and R45, the logical bit stream of a
frame (spec/42_tx_engine.md R152), runs of the per-bit commands, and the polynomials of spec/00_scope.md R4.
-/

namespace Sys2Proof.Machine

/-! ## Invariants -/

/-- The TX invariants of R44, with the facts that make them inductive: the latched buffer lies below 2^ADDR_W (R91), the
frame is at most 276 bytes long (R36), TX_FLAGCNT is at most 8192 (R33), and TX_ONES is below 5 outside TX_DATA_MODE
(spec/42_tx_engine.md R145). -/
abbrev TxInv (t : Tx) : Prop :=
  t.ones.toNat ≤ 5 ∧
  (t.mode ≠ .data → t.ones.toNat < 5) ∧
  t.len.toNat ≤ 276 ∧
  t.base.toNat + t.len.toNat ≤ 4294967296 ∧
  (t.mode ≠ .off → 2 ≤ t.len.toNat) ∧
  t.flagcnt.toNat ≤ 8192 ∧
  (t.mode = .delayFlag ∨ t.mode = .tail → 1 ≤ t.flagcnt.toNat) ∧
  t.idx.toNat ≤ 275 ∧
  (t.mode = .data → 1 ≤ t.idx.toNat ∧ t.idx.toNat + 1 ≤ t.len.toNat ∧ (t.idx.toNat + 1 = t.len.toNat → t.bitpos = 0))

/-- The RX invariants of R45, with the facts that make them inductive: the latched buffer lies below 2^ADDR_W (R91), and
a completed frame ends at index 275 or lower (spec/43_rx_engine.md R191, R193). -/
abbrev RxInv (r : Rx) : Prop :=
  r.ones.toNat ≤ 5 ∧
  r.idx.toNat ≤ 276 ∧
  r.base.toNat + 276 ≤ 4294967296 ∧
  (r.mode = .off → r.idx.toNat ≤ 275) ∧
  (r.mode = .firstFlag → r.idx.toNat = 0 ∧ r.ones.toNat = 0) ∧
  (r.mode = .flags → r.idx.toNat = 1 ∧ r.ones.toNat = 0) ∧
  (r.mode = .data → 2 ≤ r.idx.toNat)

/-- The invariant of the machine: R44, R45, and the buffer memory in its canonical form. -/
abbrev MachineInv (s : State) : Prop := TxInv s.tx ∧ RxInv s.rx ∧ Memory.wf s.mem = true

/-! ## Reading the outcome of a step -/

/-- The state an outcome goes on in, if it does. -/
def nextState : Host.Outcome State Fault Refusal → Option State
  | .next s => some s
  | .fault _ => none
  | .refused _ => none

/-! ## The bits of a frame -/

/-- The CRC of a list of bytes (spec/40_crc.md R101). -/
def crcOfBytes (bs : List Byte) : BitVec 16 := bs.foldl crcByte 0xFFFF ^^^ 0xFFFF

/-- The flag bits FlagCount(v) whole flag bytes send (spec/42_tx_engine.md R142, R147). -/
def flagStream (v : BitVec 16) : List Bool := (List.replicate (flagCount v).toNat (byteBits 0x7E)).flatten

/-- Bit stuffing (spec/42_tx_engine.md R146): a zero after every run of five ones; `n` ones went before. -/
def stuffBits : Nat → List Bool → List Bool
  | _, [] => []
  | n, true :: bs => if n = 4 then true :: false :: stuffBits 0 bs else true :: stuffBits (n + 1) bs
  | _, false :: bs => false :: stuffBits 0 bs

/-- The stuffed bits of the bytes between a frame's flags (spec/42_tx_engine.md R152). -/
def dataStream (bytes : List Byte) : List Bool := stuffBits 0 (bytes.flatMap byteBits)

/-- The logical bits a frame puts on the line (spec/42_tx_engine.md R152). -/
def frameStream (pre post : BitVec 16) (bytes : List Byte) : List Bool :=
  flagStream pre ++ dataStream bytes ++ flagStream post

/-- The transmit engine after emitting logical bits in order (spec/42_tx_engine.md R143). -/
def emitAll (t : Tx) (bs : List Bool) : Tx := bs.foldl (fun t b => emitBit b t) t

/-- The line bits of logical bits emitted in order (spec/42_tx_engine.md R143). -/
def lineBits : Tx → List Bool → List Bool
  | _, [] => []
  | t, b :: bs => (emitBit b t).line :: lineBits (emitBit b t) bs

/-- The line-level bits of logical bits emitted in order: TX_NRZI after each (spec/42_tx_engine.md R144). -/
def levelBits : Tx → List Bool → List Bool
  | _, [] => []
  | t, b :: bs => (emitBit b t).nrzi :: levelBits (emitBit b t) bs

/-- The receive engine after decoding channel bits in order (spec/43_rx_engine.md R183). -/
def decodeAll (r : Rx) (cs : List Bool) : Rx := cs.foldl (fun r c => decodeBit c r) r

/-- The logical bits decoded from channel bits in order (spec/43_rx_engine.md R183). -/
def decodedBits : Rx → List Bool → List Bool
  | _, [] => []
  | r, c :: cs => decodedBit c r :: decodedBits (decodeBit c r) cs

/-- The descrambled bits of channel bits in order: RX_NRZI after each (spec/43_rx_engine.md R182). -/
def descrambledBits : Rx → List Bool → List Bool
  | _, [] => []
  | r, c :: cs => (decodeBit c r).nrzi :: descrambledBits (decodeBit c r) cs

/-! ## Runs of the per-bit commands -/

/-- `n` TX_NEXT_BIT commands: the line bit and RES_TX after each, and the state after all. -/
def txRun : Nat → State → Option (List (Bool × Bool) × State)
  | 0, s => some ([], s)
  | n + 1, s =>
    match exec .txNextBit s with
    | .next t => (txRun n t).map fun p => ((t.tx.line, t.resTx) :: p.1, p.2)
    | .fault _ => none
    | .refused _ => none

/-- `n` passes of a loopback (spec/43_rx_engine.md R197): a TX_NEXT_BIT, then an RX_NEXT_BIT of its line bit; RES_TX and
RES_RX after each pass, and the state after all. -/
def loopRun : Nat → State → Option (List (Bool × Bool) × State)
  | 0, s => some ([], s)
  | n + 1, s =>
    match exec .txNextBit s with
    | .next t =>
      match exec (.rxNextBit t.tx.line) t with
      | .next u => (loopRun n u).map fun p => ((u.resTx, u.resRx) :: p.1, p.2)
      | .fault _ => none
      | .refused _ => none
    | .fault _ => none
    | .refused _ => none

/-- The conditions of spec/43_rx_engine.md R199 on the first two bytes after a frame's opening flag. -/
def headerRoundTrips (b0 b1 : Byte) : Bool :=
  b0 != 0x7E &&
  !((List.range 4).any fun k => (((byteBits b0).drop k).take 5).all id) &&
  ((byteBits b0).reverse.takeWhile id).length + ((byteBits b1).takeWhile id).length < 5

/-! ## What a host looks at -/

/-- The length of a received frame (spec/43_rx_engine.md R193). -/
def receivedLength (s : State) : Nat := s.rx.idx.toNat + 1

/-- The host's check of a frame of length `len` at `a` after CRC_COMPUTE (spec/40_crc.md R104): RES_CORE equals the FCS
bytes in memory, low byte first. -/
def fcsMatches (s : State) (a len : Nat) : Prop :=
  ∃ lo hi : Byte, s.mem.read (a + len - 3) = some lo ∧ s.mem.read (a + len - 2) = some hi ∧
    s.resCore.toNat = lo.toNat + 256 * hi.toNat

/-! ## The CRC as a polynomial remainder (spec/00_scope.md R4, spec/40_crc.md R103) -/

/-- A bit as a coefficient. -/
def bitCoeff (b : Bool) : ZMod 2 := if b then 1 else 0

open Polynomial in
/-- G(x) = x^16 + x^12 + x^5 + 1 (R4). -/
noncomputable def crcGenerator : (ZMod 2)[X] := X ^ 16 + X ^ 12 + X ^ 5 + 1

open Polynomial in
/-- Bits as a polynomial, the first bit the highest coefficient. -/
noncomputable def bitsPoly (bs : List Bool) : (ZMod 2)[X] := bs.foldl (fun p b => p * X + C (bitCoeff b)) 0

/-- The bit-reflected register as a polynomial: bit 0 is the coefficient of x^15 (R4: "processed bit-reflected"). -/
noncomputable def registerPoly (crc : BitVec 16) : Polynomial (ZMod 2) :=
  bitsPoly ((List.range 16).map fun k => crc.getLsbD k)

end Sys2Proof.Machine
end

