-- ==== Sys2Proof/Certificates/Slice0/Obligations.lean ====
section
/-!
DEFINITION. The statements about AX25-CORE for the provers, from the numbered rules of spec/.
-/

open Sys2Proof Sys2Proof.Machine

/-! ## Command words (spec/30_encoding.md) -/

/-- R82, R94: every command has exactly one word, and every word the decoder accepts is that word of its command. -/
def Obligations.DecodeAcceptsExactlyTheEncodings : Prop :=
  ∀ (w : Word) (i : Instr), decode w = .ok i ↔ w = encode i

/-- R82: "The legal command words are therefore exactly" these 15. -/
def Obligations.LegalWordsAreTheFifteenListed : Prop :=
  ∀ w : Word, (∃ i, decode w = .ok i) ↔
    w ∈ ([0x00000001, 0x00000002, 0x00000003, 0x00000004, 0x00000006, 0x00000007, 0x00000008,
          0x00000005, 0x00000105, 0x00000009, 0x00000109, 0x0000000A, 0x0000010A, 0x0000000B, 0x0000010B] : List Word)

/-- R86, R241: the three tests of an illegal word, in the rule's order, on the fields of R81 written as numbers. -/
def Obligations.DecodeTestsInRuleOrder : Prop :=
  ∀ w : Word,
    let n := w.toNat
    let op := n % 16
    let rsv0 := n / 16 % 16
    let b := n / 256 % 2
    let rsv1 := n / 512
    (rsv1 ≠ 0 ∨ rsv0 ≠ 0 → decode w = .error .reservedBits) ∧
    (rsv1 = 0 → rsv0 = 0 → op ∈ [0x0, 0xC, 0xD, 0xE, 0xF] → decode w = .error .reservedOpcode) ∧
    (rsv1 = 0 → rsv0 = 0 → op ∉ [0x0, 0xC, 0xD, 0xE, 0xF] → b = 1 → op ∉ [0x5, 0x9, 0xA, 0xB] →
      decode w = .error .strayOperand) ∧
    (rsv1 = 0 → rsv0 = 0 → op ∉ [0x0, 0xC, 0xD, 0xE, 0xF] → (b = 1 → op ∈ [0x5, 0x9, 0xA, 0xB]) →
      ∃ i, decode w = .ok i)

/-- The decoder agrees with spec/opcode_table.json: a word is a row's exactly when it decodes to that row's command. -/
def Obligations.DecodeAgreesWithOpcodeTable : Prop :=
  ∀ w : Word, ∀ row ∈ opcodeTable, row.holds w = true ↔ ∃ i, decode w = .ok i ∧ i.mnemonic = row.mnemonic

/-- A few words written out from R82. -/
def Obligations.WrittenWordsDecode : Prop :=
  decode 0x00000001 = .ok .crcCompute ∧ decode 0x00000002 = .ok .crcPut ∧ decode 0x00000003 = .ok .uiPrepare ∧
  decode 0x00000004 = .ok .txInit ∧ decode 0x00000105 = .ok (.txBit true) ∧ decode 0x00000007 = .ok .txNextBit ∧
  decode 0x00000008 = .ok .rxInit ∧ decode 0x00000009 = .ok (.rxBit false) ∧
  decode 0x0000010A = .ok (.rxCheckStuffing true) ∧ decode 0x0000010B = .ok (.rxNextBit true)

/-! ## The step and the host port (spec/44_host_access.md, spec/70_reset_and_hazards.md) -/

/-- R85, R223: a word write to CMD whose word decodes to `i` runs exactly `i` at the state with that write taken off the
queue. The queue, and what ends with a command (the bytes a third agent was writing are contended no more, the free values
move on), are the model's choice: log entries 1 and 6. -/
def Obligations.StepRunsTheDecodedCommand : Prop :=
  ∀ (s : State) (w : Word) (rest : List HostEvent) (i : Instr),
    s.hostIn = .regWrite .word 0x00 w :: rest → decode w = .ok i →
    (∀ t, exec i { s with hostIn := rest } = .next t →
      step s = .next { t with bus := { contended := [], tick := t.bus.tick + 1 } }) ∧
    (∀ f, exec i { s with hostIn := rest } = .fault f → step s = .fault f) ∧
    (∀ r, exec i { s with hostIn := rest } = .refused r → step s = .refused r)

/-- A step serves the next queued act of the outside world, whichever act it is, at the state with that act taken off the
queue, and with none queued nothing changes (R256). A read of the register block changes nothing but the record of what it
returned (R228), a write has the effect of `hostWrite`, a store from outside changes the byte, reset gives the reset values
and keeps memory (R270, R273), a command cut by reset ends as `afterCut` says, and so on. The queue, the record, the contended
bytes, the choice of what a cut command leaves, and that a host load of an unwritten byte stops are the model's choice: log
entries 1, 2, 3, 6, 7, 13 and 18. -/
def Obligations.StepServesTheNextAct : Prop :=
  ∀ (s : State) (rest : List HostEvent) (width : AccessWidth) (o : BitVec 8) (v a : Word) (x : Byte),
    (s.hostIn = [] → step s = .next s) ∧
    (∀ e, s.hostIn = e :: rest → step s = serve e { s with hostIn := rest }) ∧
    (s.hostIn = .memWrite a x :: rest → step s = .next { s with hostIn := rest, mem := s.mem.write a.toNat x }) ∧
    (s.hostIn = .reset :: rest →
      step s = .next { State.reset with mem := s.mem, hostIn := rest, hostOut := s.hostOut, bus := s.bus }) ∧
    (∀ t, s.hostIn = .cmdCutByReset v :: rest → issue v { s with hostIn := rest } = .next t →
      step s = .next (afterCut { s with hostIn := rest } t)) ∧
    (s.hostIn = .regRead width o :: rest →
      step s = .next { s with hostIn := rest, hostOut := hostReadValue width o s :: s.hostOut }) ∧
    (s.hostIn = .regWrite width o v :: rest → step s = hostWrite width o v { s with hostIn := rest }) ∧
    (s.hostIn = .memRead a :: rest → s.mem.read a.toNat = some x →
      step s = .next { s with hostIn := rest, hostOut := BitVec.ofNat 32 x.toNat :: s.hostOut }) ∧
    (s.hostIn = .memRead a :: rest → s.mem.read a.toNat = none → step s = .fault (.unwrittenRead a.toNat)) ∧
    (s.hostIn = .contend a :: rest →
      step s = .next { s with hostIn := rest, bus := { s.bus with contended := a.toNat :: s.bus.contended } })

/-- R87: "An illegal command word … sets STATUS.ILL_CMD and does nothing else", and the host's write still completes. A
word is illegal when it is no command's word (R82, R94). Said of the issue, of the CMD write and of the step that serves that
write; the queue and the bus fields that end with the write are the model's choice: log entries 1 and 6. -/
def Obligations.IllegalWordOnlySetsIllCmd : Prop :=
  ∀ (s : State) (w : Word) (rest : List HostEvent), (∀ i, w ≠ encode i) →
    let status := { s.status with illCmd := true }
    let bus := { contended := [], tick := s.bus.tick + 1 }
    issue w s = .next { s with status := status } ∧
    hostWrite .word 0x00 w s = .next { s with status := status, bus := bus } ∧
    (s.hostIn = .regWrite .word 0x00 w :: rest →
      step s = .next { s with status := status, hostIn := rest, bus := bus })

/-- R221: what a word read at each offset returns, each packed register written as the sum of its fields. -/
def Obligations.RegisterReadsReturnTheTable : Prop :=
  ∀ (s : State) (o : BitVec 8),
    let v := hostReadValue .word o s
    (∀ p ∈ [((0x00 : BitVec 8), 0), (0x04, s.arg0.toNat), (0x08, s.arg1.toNat), (0x0C, s.arg2.toNat),
        (0x10, s.resCore.toNat), (0x14, s.resTx.toNat), (0x18, s.resRx.toNat),
        (0x1C, 4 * s.status.rxOvf.toNat + 2 * s.status.argErr.toNat + s.status.illCmd.toNat),
        (0x20, s.cfgPre.toNat), (0x24, s.cfgPost.toNat),
        (0x28, 65536 * s.tx.idx.toNat + 512 * s.tx.line.toNat + 256 * s.tx.nrzi.toNat + 32 * s.tx.ones.toNat +
          4 * s.tx.bitpos.toNat +
          (match s.tx.mode with | .off => 0 | .delayFlag => 1 | .data => 2 | .tail => 3)),
        (0x2C, s.tx.flagcnt.toNat), (0x30, s.tx.scr.toNat), (0x34, s.tx.base.toNat), (0x38, s.tx.len.toNat),
        (0x3C, 65536 * s.rx.idx.toNat + 256 * s.rx.nrzi.toNat + 32 * s.rx.ones.toNat + 4 * s.rx.bitpos.toNat +
          (match s.rx.mode with | .off => 0 | .firstFlag => 1 | .flags => 2 | .data => 3)),
        (0x40, s.rx.scr.toNat), (0x44, s.rx.base.toNat), (0x48, s.rx.acc.toNat), (0x4C, 0x41583235)],
      o = p.1 → v.toNat = p.2) ∧
    (0x50 ≤ o.toNat → v.toNat = 0)

/-- R227: an access of a width other than 32 bits, at an offset that is no multiple of 4, or at 0x50..0xFF reads 0, and its write
changes nothing. -/
def Obligations.UnsupportedAccessesReadZeroAndAreIgnored : Prop :=
  ∀ (s : State) (width : AccessWidth) (o : BitVec 8) (v : Word),
    width ≠ .word ∨ o.toNat % 4 ≠ 0 ∨ 0x50 ≤ o.toNat →
    hostReadValue width o s = 0 ∧ hostWrite width o v s = .next s

/-- R222, R225, R226: a word write to ARG0..ARG2 takes the value, one to CFG_PRE or CFG_POST its low 16 bits, and one to a
read-only register is ignored; nothing else changes. -/
def Obligations.RegisterWritesFollowTheTable : Prop :=
  ∀ (s : State) (o : BitVec 8) (v : Word),
    (o = 0x04 → hostWrite .word o v s = .next { s with arg0 := v }) ∧
    (o = 0x08 → hostWrite .word o v s = .next { s with arg1 := v }) ∧
    (o = 0x0C → hostWrite .word o v s = .next { s with arg2 := v }) ∧
    (o = 0x20 → hostWrite .word o v s = .next { s with cfgPre := BitVec.ofNat 16 (v.toNat % 65536) }) ∧
    (o = 0x24 → hostWrite .word o v s = .next { s with cfgPost := BitVec.ofNat 16 (v.toNat % 65536) }) ∧
    (o ∈ ([0x10, 0x14, 0x18, 0x28, 0x2C, 0x30, 0x34, 0x38, 0x3C, 0x40, 0x44, 0x48, 0x4C] : List (BitVec 8)) →
      hostWrite .word o v s = .next s)

/-- R224: a STATUS write clears the bits written 1, leaves the others, and changes nothing else. -/
def Obligations.StatusWriteOneToClear : Prop :=
  ∀ (s : State) (v : Word),
    hostWrite .word 0x1C v s = .next { s with
      status := { illCmd := s.status.illCmd && v.toNat % 2 == 0
                  argErr := s.status.argErr && v.toNat / 2 % 2 == 0
                  rxOvf := s.status.rxOvf && v.toNat / 4 % 2 == 0 } }

/-- R71, for stores to buffer memory from outside the CORE: the byte takes the value and no other byte changes, so a later
read of it, the CORE's too, gives the value of the last write. -/
def Obligations.StoresFromOutsideChangeOneByte : Prop :=
  ∀ (s : State) (a : Word) (x : Byte), Memory.wf s.mem = true →
    ∃ m, serve (.memWrite a x) s = .next { s with mem := m } ∧
      (∀ b, m.read b = if b = a.toNat then some x else s.mem.read b) ∧
      (∀ use, a.toNat ∉ s.bus.contended → busRead s.bus use m a.toNat = .ok x)

/-- R23, R270, R273: the reset value of every state variable, and that the reset event gives each of them that value in
every state and does not touch the buffer memory. -/
def Obligations.ResetGivesTheListedValues : Prop :=
  let listed := fun t : State =>
    t.arg0 = 0 ∧ t.arg1 = 0 ∧ t.arg2 = 0 ∧ t.resCore = 0 ∧ t.resTx = false ∧ t.resRx = false ∧
    t.status = { illCmd := false, argErr := false, rxOvf := false } ∧ t.cfgPre = 300 ∧ t.cfgPost = 100 ∧
    t.tx = { mode := .off, bitpos := 0, ones := 0, nrzi := true, line := false, idx := 0, flagcnt := 0, scr := 0,
             base := 0, len := 0 } ∧
    t.rx = { mode := .off, bitpos := 0, ones := 0, nrzi := true, idx := 0, scr := 0, base := 0, acc := 0 }
  listed State.reset ∧ ∀ s : State, ∃ t, serve .reset s = .next t ∧ listed t ∧ t.mem = s.mem

/-- R284: after a command cut short by reset the registers hold their reset values, and each byte of memory is as the
command found it or as the whole command would have left it. Which of the two is a free value: log entry 7. An illegal word
cut short leaves every byte as it was. The queue kept and the bus fields that end are the model's choice: log entries 6
and 13. -/
def Obligations.CommandCutByResetLandsSomeWrites : Prop :=
  ∀ s : State, Memory.wf s.mem = true →
    let left := fun m => { State.reset with
      mem := m, hostIn := s.hostIn, hostOut := s.hostOut, bus := { contended := [], tick := s.bus.tick + 1 } }
    (∀ (i : Instr) (t : State), exec i s = .next t →
      ∃ m, serve (.cmdCutByReset (encode i)) s = .next (left m) ∧
        ∀ a, m.read a = s.mem.read a ∨ m.read a = t.mem.read a) ∧
    (∀ w : Word, (∀ i, w ≠ encode i) →
      ∃ m, serve (.cmdCutByReset w) s = .next (left m) ∧ ∀ a, m.read a = s.mem.read a)

/-! ## CRC Engine (spec/40_crc.md) -/

/-- R100: CrcByte as the rule's loop, on numbers: eight times, shift right by one, and XOR 0x8408 when the bit shifted out
differs from the byte's next bit, least significant first. -/
def Obligations.CrcByteFollowsTheLoop : Prop :=
  ∀ (crc : BitVec 16) (x : Byte),
    (crcByte crc x).toNat =
      (List.range 8).foldl (fun c k => if (c % 2 + x.toNat / 2 ^ k) % 2 = 1 then (c / 2) ^^^ 0x8408 else c / 2) crc.toNat

/-- R101: CRC_COMPUTE with arguments in range, every covered byte readable with value `bytes[k]` at index 1 + k, writes the
CRC of those bytes to RES_CORE and changes nothing else. -/
def Obligations.CrcComputeResult : Prop :=
  ∀ (s : State) (bytes : List Byte),
    3 ≤ s.arg1.toNat → s.arg1.toNat ≤ 276 → s.arg0.toNat + s.arg1.toNat ≤ 4294967296 →
    bytes.length = s.arg1.toNat - 4 →
    (∀ k x, bytes[k]? = some x → busRead s.bus .crc s.mem (s.arg0.toNat + 1 + k) = .ok x) →
    exec .crcCompute s = .next { s with resCore := (crcOfBytes bytes).setWidth 32 }

/-- R102: CRC_PUT stores the same CRC at L-3 (low byte) and L-2 (high byte), writes it to RES_CORE, and changes nothing
else: every other byte of memory reads as before. -/
def Obligations.CrcPutResult : Prop :=
  ∀ (s : State) (bytes : List Byte), Memory.wf s.mem = true →
    3 ≤ s.arg1.toNat → s.arg1.toNat ≤ 276 → s.arg0.toNat + s.arg1.toNat ≤ 4294967296 →
    bytes.length = s.arg1.toNat - 4 →
    (∀ k x, bytes[k]? = some x → busRead s.bus .crc s.mem (s.arg0.toNat + 1 + k) = .ok x) →
    ∃ m, exec .crcPut s = .next { s with mem := m, resCore := (crcOfBytes bytes).setWidth 32 } ∧
      m.read (s.arg0.toNat + s.arg1.toNat - 3) = some (BitVec.ofNat 8 ((crcOfBytes bytes).toNat % 256)) ∧
      m.read (s.arg0.toNat + s.arg1.toNat - 2) = some (BitVec.ofNat 8 ((crcOfBytes bytes).toNat / 256)) ∧
      ∀ a, a ≠ s.arg0.toNat + s.arg1.toNat - 3 → a ≠ s.arg0.toNat + s.arg1.toNat - 2 → m.read a = s.mem.read a

/-- CRC_COMPUTE and CRC_PUT stop when they come to a covered byte that nothing has written, at the first such. That such a
byte has no value here, so that the read stops as R76 asks of such a model, is the model's choice: log entry 3. -/
def Obligations.CrcStopsAtAnUnwrittenByte : Prop :=
  ∀ (s : State) (k : Nat),
    3 ≤ s.arg1.toNat → s.arg1.toNat ≤ 276 → s.arg0.toNat + s.arg1.toNat ≤ 4294967296 →
    k < s.arg1.toNat - 4 →
    (∀ j < k, ∃ x, busRead s.bus .crc s.mem (s.arg0.toNat + 1 + j) = .ok x) →
    s.arg0.toNat + 1 + k ∉ s.bus.contended → s.mem.read (s.arg0.toNat + 1 + k) = none →
    exec .crcCompute s = .fault (.unwrittenRead (s.arg0.toNat + 1 + k)) ∧
    exec .crcPut s = .fault (.unwrittenRead (s.arg0.toNat + 1 + k))

/-- R91, R242: the five commands that take ARG operands, with arguments out of range, set STATUS.ARG_ERR and change
nothing else. -/
def Obligations.ArgumentErrorsChangeOnlyArgErr : Prop :=
  ∀ (s : State),
    let raised := Host.Outcome.next (φ := Fault) (ρ := Refusal) { s with status := { s.status with argErr := true } }
    let a0 := s.arg0.toNat
    let a1 := s.arg1.toNat
    let n := min s.arg2.toNat 256
    (a1 < 3 ∨ 276 < a1 ∨ 4294967296 < a0 + a1 → exec .crcCompute s = raised ∧ exec .crcPut s = raised) ∧
    (4294967296 < a0 + n + 20 ∨ 4294967296 < a1 + n → exec .uiPrepare s = raised) ∧
    (a1 < 2 ∨ 276 < a1 ∨ 4294967296 < a0 + a1 → exec .txInit s = raised) ∧
    (4294967296 < a0 + 276 → exec .rxInit s = raised)

/-- R105: the rules give 0x906E for the ASCII string "123456789". -/
def Obligations.CrcCheckValue : Prop :=
  crcOfBytes [0x31, 0x32, 0x33, 0x34, 0x35, 0x36, 0x37, 0x38, 0x39] = 0x906E

/-- R103: two buffers of one length with the same bytes at indices 1..L-4 give the same RES_CORE, whatever else the two
states hold. For a byte a third agent is writing, equal readings are equal free values, the model's form of R72: log entry
6. -/
def Obligations.CrcDependsOnlyOnCoveredBytes : Prop :=
  ∀ (s s' t t' : State),
    s.arg1 = s'.arg1 →
    (∀ k, k < s.arg1.toNat - 4 →
      busRead s.bus .crc s.mem (s.arg0.toNat + 1 + k) = busRead s'.bus .crc s'.mem (s'.arg0.toNat + 1 + k)) →
    3 ≤ s.arg1.toNat → s.arg1.toNat ≤ 276 →
    s.arg0.toNat + s.arg1.toNat ≤ 4294967296 → s'.arg0.toNat + s'.arg1.toNat ≤ 4294967296 →
    exec .crcCompute s = .next t → exec .crcCompute s' = .next t' → t.resCore = t'.resCore

/-- R102: the stored bytes never feed the CRC: CRC_COMPUTE after CRC_PUT gives the CRC that CRC_PUT gave. Where a third
agent is writing a covered byte (R72 lets each command read any value of it), it rests on the model's free value being one
for the tick, the use and the address, and on `exec` leaving the tick alone: log entry 6. -/
def Obligations.CrcComputeAfterCrcPutAgrees : Prop :=
  ∀ (s t : State), Memory.wf s.mem = true →
    3 ≤ s.arg1.toNat → s.arg1.toNat ≤ 276 → s.arg0.toNat + s.arg1.toNat ≤ 4294967296 →
    exec .crcPut s = .next t → exec .crcCompute t = .next t

open Polynomial in
/-- R4, R103: the running register is the remainder, by G(x) = x^16 + x^12 + x^5 + 1, of the message times x^16 plus the
initial register times x^(8n), the register and each byte taken bit-reflected. -/
def Obligations.CrcIsThePolynomialRemainder : Prop :=
  ∀ (start : BitVec 16) (bytes : List Byte),
    registerPoly (bytes.foldl crcByte start) =
      (bitsPoly (bytes.flatMap byteBits) * X ^ 16 + registerPoly start * X ^ (8 * bytes.length)) %ₘ crcGenerator

/-! ## Frame Assembler (spec/41_frame_assembler.md) -/

/-- R120 to R123: UI_PREPARE with arguments in range builds the frame of R11 byte by byte and returns its length L.
`info i` is the i-th info byte as it stands when it is read (R122): any value where a third agent is writing it (R72);
otherwise an info byte already copied, an envelope byte already written, or the byte memory held before the command.
Every byte outside the frame reads as before, and no register but RES_CORE changes. -/
def Obligations.UiPrepareBuildsTheFrame : Prop :=
  ∀ (s : State) (info : Nat → Byte), Memory.wf s.mem = true →
    let d := s.arg0.toNat
    let src := s.arg1.toNat
    let n := min s.arg2.toNat 256
    let len := n + 20
    d + len ≤ 4294967296 → src + n ≤ 4294967296 →
    (∀ i < n,
      let a := src + i
      if a ∈ s.bus.contended then info i = Config.freeByte s.bus.tick .copy a
      else if d + 17 ≤ a ∧ a < d + 17 + i then info i = info (a - (d + 17))
      else if a = d ∨ a = d + len - 1 then info i = 0x7E
      else if d + 1 ≤ a ∧ a ≤ d + 14 then some (info i) = Config.hdrBytes[a - (d + 1)]?
      else if a = d + 15 then info i = 0x03
      else if a = d + 16 then info i = 0xF0
      else s.mem.read a = some (info i)) →
    ∃ m, exec .uiPrepare s = .next { s with mem := m, resCore := BitVec.ofNat 32 len } ∧
      m.read d = some 0x7E ∧
      (∀ k : Fin 14, m.read (d + 1 + k.val) = some (Config.hdrAddr k)) ∧
      m.read (d + 15) = some 0x03 ∧ m.read (d + 16) = some 0xF0 ∧
      (∀ i < n, m.read (d + 17 + i) = some (info i)) ∧
      m.read (d + len - 1) = some 0x7E ∧
      (∃ crc : BitVec 16, frameCrc s.bus m d len = .ok crc ∧
        m.read (d + len - 3) = some (BitVec.ofNat 8 (crc.toNat % 256)) ∧
        m.read (d + len - 2) = some (BitVec.ofNat 8 (crc.toNat / 256))) ∧
      ∀ a, a < d ∨ d + len ≤ a → m.read a = s.mem.read a

/-- UI_PREPARE stops at the first info byte that nothing has written, neither before the command nor by its own earlier
writes (the envelope, and the info bytes already copied), and TX_NEXT_BIT at a data byte that nothing has written; a byte a
third agent is writing has a value (R72). That an unwritten byte has no value here, so that the read stops as R76 asks of
such a model, is the model's choice: log entry 3. -/
def Obligations.InfoAndDataReadsStopAtAnUnwrittenByte : Prop :=
  ∀ (s : State), Memory.wf s.mem = true →
    (∀ k, k < min s.arg2.toNat 256 →
      s.arg0.toNat + min s.arg2.toNat 256 + 20 ≤ 4294967296 → s.arg1.toNat + min s.arg2.toNat 256 ≤ 4294967296 →
      let written := fun j a =>
        (s.arg0.toNat ≤ a ∧ a < s.arg0.toNat + 17 + j) ∨ a = s.arg0.toNat + min s.arg2.toNat 256 + 19
      (∀ j < k, written j (s.arg1.toNat + j) ∨ ∃ x, busRead s.bus .copy s.mem (s.arg1.toNat + j) = .ok x) →
      ¬ written k (s.arg1.toNat + k) → s.arg1.toNat + k ∉ s.bus.contended → s.mem.read (s.arg1.toNat + k) = none →
      exec .uiPrepare s = .fault (.unwrittenRead (s.arg1.toNat + k))) ∧
    (s.tx.mode = .data → s.tx.ones ≠ 5 → s.tx.idx.toNat + 1 < s.tx.len.toNat →
      s.tx.base.toNat + s.tx.idx.toNat < 4294967296 → s.tx.base.toNat + s.tx.idx.toNat ∉ s.bus.contended →
      s.mem.read (s.tx.base.toNat + s.tx.idx.toNat) = none →
      exec .txNextBit s = .fault (.unwrittenRead (s.tx.base.toNat + s.tx.idx.toNat)))

/-- R123: CRC_COMPUTE over the frame UI_PREPARE built returns the FCS stored in it. Where a third agent is writing a frame
byte (R72 lets each command read any value of it), it rests on the model's free value being one for the tick, the use and the
address, and on `exec` leaving the tick alone: log entry 6. -/
def Obligations.CrcComputeAfterUiPrepareReturnsTheFcs : Prop :=
  ∀ (s t : State), Memory.wf s.mem = true →
    s.arg0.toNat + min s.arg2.toNat 256 + 20 ≤ 4294967296 → s.arg1.toNat + min s.arg2.toNat 256 ≤ 4294967296 →
    exec .uiPrepare s = .next t →
    ∃ u, exec .crcCompute { t with arg1 := t.resCore } = .next u ∧ fcsMatches u t.arg0.toNat t.resCore.toNat

/-! ## Transmit Bit Engine (spec/42_tx_engine.md) -/

/-- R141: TX_INIT with arguments in range. -/
def Obligations.TxInitStartsThePreamble : Prop :=
  ∀ s : State, 2 ≤ s.arg1.toNat → s.arg1.toNat ≤ 276 → s.arg0.toNat + s.arg1.toNat ≤ 4294967296 →
    exec .txInit s = .next { s with
      tx := { mode := .delayFlag, bitpos := 0, idx := 0, ones := 0, nrzi := true,
              flagcnt := BitVec.ofNat 16 (max 1 ((s.cfgPre.toNat + 7) / 8)), base := s.arg0,
              len := BitVec.ofNat 9 s.arg1.toNat, scr := s.tx.scr, line := s.tx.line } }

/-- R142: FlagCount(v) = max(1, ceil(v / 8)), without loss in 16 bits; the rule's two examples. -/
def Obligations.FlagCountRoundsUp : Prop :=
  (∀ v : BitVec 16, 1 ≤ (flagCount v).toNat ∧ (flagCount v).toNat ≤ 8192 ∧ v.toNat ≤ 8 * (flagCount v).toNat ∧
    (∀ k, 1 ≤ k → v.toNat ≤ 8 * k → (flagCount v).toNat ≤ k)) ∧
  flagCount 300 = 38 ∧ flagCount 100 = 13

/-- R143: TX_BIT in every mode: a logical 0 toggles TX_NRZI; the line bit is TX_NRZI XOR bits 11 and 16 of TX_SCR; TX_SCR
shifts left by one, the line bit entering at bit 0 and bit 16 lost. Nothing else changes. -/
def Obligations.TxBitResult : Prop :=
  ∀ (b : Bool) (s : State),
    let level := (s.tx.nrzi.toNat + (if b then 0 else 1)) % 2
    let line := (level + s.tx.scr.toNat / 2 ^ 11 + s.tx.scr.toNat / 2 ^ 16) % 2
    exec (.txBit b) s = .next { s with
      resTx := line == 1
      tx := { s.tx with nrzi := level == 1, line := line == 1,
                        scr := BitVec.ofNat 17 (2 * s.tx.scr.toNat + line) } }

/-- R145: TX_CHECK_STUFFING: with TX_ONES = 5 it emits a logical 0 as TX_BIT does, clears TX_ONES and returns 1;
otherwise it returns 0 with no effect. -/
def Obligations.TxCheckStuffingResult : Prop :=
  ∀ s : State,
    (s.tx.ones = 5 →
      exec .txCheckStuffing s = .next { s with resTx := true, tx := { emitBit false s.tx with ones := 0 } }) ∧
    (s.tx.ones ≠ 5 → exec .txCheckStuffing s = .next { s with resTx := false })

/-- R150: TX_NEXT_BIT in TX_OFF returns 0 and changes nothing else. -/
def Obligations.TxNextBitWhenOff : Prop :=
  ∀ s : State, s.tx.mode = .off → exec .txNextBit s = .next { s with resTx := false }

/-- R147: TX_NEXT_BIT in TX_DELAY_FLAG and TX_TAIL_MODE emits the flag's next bit (0,1,1,1,1,1,1,0), counts whole flags,
and after the last one starts the data or ends the frame. -/
def Obligations.TxNextBitSendsFlags : Prop :=
  ∀ (s : State) (k : Nat), s.tx.mode = .delayFlag ∨ s.tx.mode = .tail → s.tx.flagcnt ≠ 0 → s.tx.bitpos.toNat = k →
    let e := emitBit (decide (1 ≤ k ∧ k ≤ 6)) s.tx
    (k < 7 → exec .txNextBit s = .next { s with resTx := true, tx := { e with bitpos := BitVec.ofNat 3 (k + 1) } }) ∧
    (k = 7 → 2 ≤ s.tx.flagcnt.toNat → exec .txNextBit s = .next { s with
      resTx := true, tx := { e with bitpos := 0, flagcnt := BitVec.ofNat 16 (s.tx.flagcnt.toNat - 1) } }) ∧
    (k = 7 → s.tx.flagcnt = 1 → s.tx.mode = .delayFlag → exec .txNextBit s = .next { s with
      resTx := true, tx := { e with bitpos := 0, flagcnt := 0, mode := .data, idx := 1, ones := 0 } }) ∧
    (k = 7 → s.tx.flagcnt = 1 → s.tx.mode = .tail → exec .txNextBit s = .next { s with
      resTx := false, tx := { e with bitpos := 0, flagcnt := 0, mode := .off } })

/-- R148: TX_NEXT_BIT in TX_DATA_MODE: a pending stuffed zero goes first; then, with the buffer's closing flag reached, the
tail is entered with CFG_POST and the first flag bit sent; otherwise bit TX_BITPOS of the byte at TX_BASE + TX_IDX is sent
and counted. -/
def Obligations.TxNextBitSendsData : Prop :=
  ∀ s : State, s.tx.mode = .data →
    (s.tx.ones = 5 →
      exec .txNextBit s = .next { s with resTx := true, tx := { emitBit false s.tx with ones := 0 } }) ∧
    (s.tx.ones ≠ 5 → s.tx.len.toNat ≤ s.tx.idx.toNat + 1 →
      exec .txNextBit s = .next { s with
        resTx := true
        tx := { emitBit false s.tx with
          mode := .tail, bitpos := 1, flagcnt := BitVec.ofNat 16 (max 1 ((s.cfgPost.toNat + 7) / 8)) } }) ∧
    (s.tx.ones ≠ 5 → s.tx.idx.toNat + 1 < s.tx.len.toNat →
      ∀ x, busRead s.bus .txBit s.mem (s.tx.base.toNat + s.tx.idx.toNat) = .ok x →
        let b := x.getLsbD s.tx.bitpos.toNat
        exec .txNextBit s = .next { s with
          resTx := true
          tx := { emitBit b s.tx with
            ones := if b then s.tx.ones + 1 else 0
            bitpos := BitVec.ofNat 3 ((s.tx.bitpos.toNat + 1) % 8)
            idx := BitVec.ofNat 9 (if s.tx.bitpos.toNat = 7 then s.tx.idx.toNat + 1 else s.tx.idx.toNat) } })

/-- R50, R140, R153: the frame of the four TX commands: whatever the outcome goes on to, ARG0..ARG2, RES_CORE, RES_RX, the
configuration, every RX variable and every byte of memory are unchanged; STATUS is unchanged but for ARG_ERR, which only
TX_INIT may set. -/
def Obligations.TxCommandsFrame : Prop :=
  ∀ (s t : State) (i : Instr) (b : Bool), i ∈ [.txInit, .txBit b, .txCheckStuffing, .txNextBit] →
    exec i s = .next t →
    t.arg0 = s.arg0 ∧ t.arg1 = s.arg1 ∧ t.arg2 = s.arg2 ∧ t.resCore = s.resCore ∧ t.resRx = s.resRx ∧
    t.cfgPre = s.cfgPre ∧ t.cfgPost = s.cfgPost ∧ t.rx = s.rx ∧ (∀ a, t.mem.read a = s.mem.read a) ∧
    t.status.illCmd = s.status.illCmd ∧ t.status.rxOvf = s.status.rxOvf ∧
    (i ≠ .txInit → t.status = s.status) ∧ (i = .txInit → t.resTx = s.resTx)

/-- R144: the line bits obey y_t = n_t ^ y_{t-12} ^ y_{t-17}, where a y before the first step is a bit of TX_SCR. -/
def Obligations.ScramblerLaw : Prop :=
  ∀ (t : Tx) (bs : List Bool) (k : Nat), k < bs.length →
    let y := lineBits t bs
    let past := fun j => if j ≤ k then y.getD (k - j) false else t.scr.getLsbD (j - k - 1)
    y.getD k false = ((levelBits t bs).getD k false ^^ past 12 ^^ past 17)

/-- R151: the mode of the TX engine after a command: TX_INIT with valid arguments enters TX_DELAY_FLAG from any mode;
TX_NEXT_BIT makes the table's transitions, in the table's conditions; no other command changes TX_MODE. -/
def Obligations.TxTransitionTable : Prop :=
  ∀ (s t : State) (i : Instr), exec i s = .next t → t.tx.mode ≠ s.tx.mode →
    (i = .txInit ∧ t.tx.mode = .delayFlag) ∨
    (i = .txNextBit ∧ s.tx.mode = .delayFlag ∧ t.tx.mode = .data ∧ s.tx.flagcnt = 1 ∧ s.tx.bitpos = 7 ∧
      t.tx.idx = 1 ∧ t.tx.ones = 0) ∨
    (i = .txNextBit ∧ s.tx.mode = .data ∧ t.tx.mode = .tail ∧ s.tx.ones ≠ 5 ∧ s.tx.len.toNat ≤ s.tx.idx.toNat + 1) ∨
    (i = .txNextBit ∧ s.tx.mode = .tail ∧ t.tx.mode = .off ∧ s.tx.flagcnt = 1 ∧ s.tx.bitpos = 7 ∧ t.resTx = false)

/-- R152: the frame on the line. From the state TX_INIT leaves for a buffer of L bytes whose bytes 1..L-2 are `bytes`, the
TX_NEXT_BIT commands emit the preamble flags, the stuffed bits of `bytes`, then the postamble flags, each through the bit
transform of R143; the last one returns 0, every earlier one 1; the engine ends in TX_OFF and memory is as it was. The run is
of `exec`, so the contended bytes and the tick stay; a byte a third agent is writing reads as one free value throughout, the
model's form: log entry 6. -/
def Obligations.TxFrameOnTheLine : Prop :=
  ∀ (s : State) (a : Word) (len : Word) (before : Tx) (bytes : List Byte),
    s.tx = { before with mode := .delayFlag, bitpos := 0, idx := 0, ones := 0, nrzi := true,
                         flagcnt := flagCount s.cfgPre, base := a, len := BitVec.ofNat 9 len.toNat } →
    2 ≤ len.toNat → len.toNat ≤ 276 → a.toNat + len.toNat ≤ 4294967296 →
    bytes.length = len.toNat - 2 →
    (∀ k x, bytes[k]? = some x → busRead s.bus .txBit s.mem (a.toNat + 1 + k) = .ok x) →
    let bits := frameStream s.cfgPre s.cfgPost bytes
    ∃ t, txRun bits.length s =
        some ((lineBits s.tx bits).zip (List.replicate (bits.length - 1) true ++ [false]), t) ∧
      t.tx.mode = .off ∧ t.tx.scr = (emitAll s.tx bits).scr ∧ t.mem = s.mem

/-! ## Receive Bit Engine (spec/43_rx_engine.md) -/

/-- R181: RX_INIT with its argument in range. -/
def Obligations.RxInitStartsTheHunt : Prop :=
  ∀ s : State, s.arg0.toNat + 276 ≤ 4294967296 →
    exec .rxInit s = .next { s with
      rx := { mode := .firstFlag, bitpos := 0, idx := 0, ones := 0, acc := 0, nrzi := true, base := s.arg0,
              scr := s.rx.scr } }

/-- R183: RX_BIT in every mode: the channel bit XOR bits 11 and 16 of RX_SCR is the descrambled bit; it decodes to 1 when
it equals RX_NRZI, which takes it; RX_SCR shifts left by one, the raw channel bit entering at bit 0. Nothing else
changes. -/
def Obligations.RxBitResult : Prop :=
  ∀ (c : Bool) (s : State),
    let level := (c.toNat + s.rx.scr.toNat / 2 ^ 11 + s.rx.scr.toNat / 2 ^ 16) % 2
    exec (.rxBit c) s = .next { s with
      resRx := level == s.rx.nrzi.toNat
      rx := { s.rx with nrzi := level == 1, scr := BitVec.ofNat 17 (2 * s.rx.scr.toNat + c.toNat) } }

/-- R185: RX_CHECK_STUFFING in every mode: it decodes the bit as RX_BIT does; a 0 clears RX_ONES and returns 1, a 1
returns 0. -/
def Obligations.RxCheckStuffingResult : Prop :=
  ∀ (c : Bool) (s : State),
    (decodedBit c s.rx = false →
      exec (.rxCheckStuffing c) s = .next { s with resRx := true, rx := { decodeBit c s.rx with ones := 0 } }) ∧
    (decodedBit c s.rx = true →
      exec (.rxCheckStuffing c) s = .next { s with resRx := false, rx := decodeBit c s.rx })

/-- R189: RX_NEXT_BIT in RX_OFF decodes, stores nothing and returns 1. -/
def Obligations.RxNextBitWhenOff : Prop :=
  ∀ (c : Bool) (s : State), s.rx.mode = .off →
    exec (.rxNextBit c) s = .next { s with resRx := true, rx := decodeBit c s.rx }

/-- R186, with R184: RX_NEXT_BIT in RX_FIRST_FLAG_MODE: the decoded bit enters the window at bit 7; a window of 0x7E stores
the flag at index 0 and starts RX_FLAGS_MODE. -/
def Obligations.RxNextBitHuntsTheFlag : Prop :=
  ∀ (c : Bool) (s : State), s.rx.mode = .firstFlag → RxInv s.rx → Memory.wf s.mem = true →
    let acc := s.rx.acc.toNat / 2 + 128 * (decodedBit c s.rx).toNat
    (acc ≠ 0x7E → exec (.rxNextBit c) s = .next { s with
      resRx := true, rx := { decodeBit c s.rx with acc := BitVec.ofNat 8 acc } }) ∧
    (acc = 0x7E → ∃ m, exec (.rxNextBit c) s = .next { s with
        resRx := true, mem := m
        rx := { decodeBit c s.rx with acc := 0x7E, idx := 1, bitpos := 0, mode := .flags } } ∧
      m.read s.rx.base.toNat = some 0x7E ∧ ∀ a, a ≠ s.rx.base.toNat → m.read a = s.mem.read a)

/-- R187: RX_NEXT_BIT in RX_FLAGS_MODE: whole bytes are assembled; a flag is skipped, and the first other byte is stored at
index 1 and starts RX_DATA_MODE with RX_ONES 0. -/
def Obligations.RxNextBitSkipsFlags : Prop :=
  ∀ (c : Bool) (s : State), s.rx.mode = .flags → RxInv s.rx → Memory.wf s.mem = true →
    let acc := s.rx.acc.toNat / 2 + 128 * (decodedBit c s.rx).toNat
    let r := { decodeBit c s.rx with acc := BitVec.ofNat 8 acc, bitpos := BitVec.ofNat 3 ((s.rx.bitpos.toNat + 1) % 8) }
    (s.rx.bitpos.toNat ≠ 7 ∨ acc = 0x7E → exec (.rxNextBit c) s = .next { s with resRx := true, rx := r }) ∧
    (s.rx.bitpos.toNat = 7 → acc ≠ 0x7E → ∃ m, exec (.rxNextBit c) s = .next { s with
        resRx := true, mem := m, rx := { r with idx := 2, ones := 0, mode := .data } } ∧
      m.read (s.rx.base.toNat + 1) = some (BitVec.ofNat 8 acc) ∧
      ∀ a, a ≠ s.rx.base.toNat + 1 → m.read a = s.mem.read a)

/-- R188: RX_NEXT_BIT in RX_DATA_MODE with a stuffing check pending (RX_ONES = 5): a 0 is discarded; a 1, with room in the
buffer, is the closing flag: 0x7E is stored at RX_IDX, the engine turns off and the command returns 0. -/
def Obligations.RxNextBitChecksStuffing : Prop :=
  ∀ (c : Bool) (s : State), s.rx.mode = .data → RxInv s.rx → Memory.wf s.mem = true → s.rx.ones = 5 →
    (decodedBit c s.rx = false → exec (.rxNextBit c) s = .next { s with
      resRx := true, rx := { decodeBit c s.rx with ones := 0 } }) ∧
    (decodedBit c s.rx = true → s.rx.idx.toNat < 276 → ∃ m, exec (.rxNextBit c) s = .next { s with
        resRx := false, mem := m, rx := { decodeBit c s.rx with mode := .off } } ∧
      m.read (s.rx.base.toNat + s.rx.idx.toNat) = some 0x7E ∧
      ∀ a, a ≠ s.rx.base.toNat + s.rx.idx.toNat → m.read a = s.mem.read a)

/-- R188: RX_NEXT_BIT in RX_DATA_MODE with no stuffing check pending: the bit is counted and assembled; a whole byte, with
room in the buffer, is stored at RX_IDX, which advances. -/
def Obligations.RxNextBitAssemblesBytes : Prop :=
  ∀ (c : Bool) (s : State), s.rx.mode = .data → RxInv s.rx → Memory.wf s.mem = true → s.rx.ones ≠ 5 →
    let d := decodedBit c s.rx
    let acc := s.rx.acc.toNat / 2 + 128 * d.toNat
    let r := { decodeBit c s.rx with
      acc := BitVec.ofNat 8 acc, ones := if d then s.rx.ones + 1 else 0
      bitpos := BitVec.ofNat 3 ((s.rx.bitpos.toNat + 1) % 8) }
    (s.rx.bitpos.toNat ≠ 7 → exec (.rxNextBit c) s = .next { s with resRx := true, rx := r }) ∧
    (s.rx.bitpos.toNat = 7 → s.rx.idx.toNat < 276 → ∃ m, exec (.rxNextBit c) s = .next { s with
        resRx := true, mem := m, rx := { r with idx := BitVec.ofNat 9 (s.rx.idx.toNat + 1) } } ∧
      m.read (s.rx.base.toNat + s.rx.idx.toNat) = some (BitVec.ofNat 8 acc) ∧
      ∀ a, a ≠ s.rx.base.toNat + s.rx.idx.toNat → m.read a = s.mem.read a)

/-- R191, R243: an RX_NEXT_BIT in RX_DATA_MODE that must store a byte with the buffer full sets RX_OVF, writes no memory,
resynchronises with RX_BASE and RX_SCR kept, and returns 1. -/
def Obligations.RxOverrunResynchronises : Prop :=
  ∀ (c : Bool) (s : State), s.rx.mode = .data → 276 ≤ s.rx.idx.toNat →
    (s.rx.ones = 5 ∧ decodedBit c s.rx = true) ∨ (s.rx.ones ≠ 5 ∧ s.rx.bitpos = 7) →
    exec (.rxNextBit c) s = .next { s with
      resRx := true
      status := { s.status with rxOvf := true }
      rx := { mode := .firstFlag, bitpos := 0, idx := 0, ones := 0, acc := 0, nrzi := true, base := s.rx.base,
              scr := BitVec.ofNat 17 (2 * s.rx.scr.toNat + c.toNat) } }

/-- R50, R180, R191: the frame of the four RX commands: ARG0..ARG2, RES_CORE, RES_TX, the configuration and every TX variable
are unchanged; RX_INIT, RX_BIT and RX_CHECK_STUFFING leave every byte of memory, and RX_NEXT_BIT changes at most the byte
at RX_BASE + RX_IDX, and only with RX_IDX below 276; RX_OVF is set only by RX_NEXT_BIT, ARG_ERR only by RX_INIT. -/
def Obligations.RxCommandsFrame : Prop :=
  ∀ (s t : State) (i : Instr) (c : Bool), i ∈ [.rxInit, .rxBit c, .rxCheckStuffing c, .rxNextBit c] →
    Memory.wf s.mem = true → exec i s = .next t →
    t.arg0 = s.arg0 ∧ t.arg1 = s.arg1 ∧ t.arg2 = s.arg2 ∧ t.resCore = s.resCore ∧ t.resTx = s.resTx ∧
    t.cfgPre = s.cfgPre ∧ t.cfgPost = s.cfgPost ∧ t.tx = s.tx ∧
    (i ≠ .rxNextBit c → ∀ a, t.mem.read a = s.mem.read a) ∧
    (∀ a, a ≠ s.rx.base.toNat + s.rx.idx.toNat ∨ 276 ≤ s.rx.idx.toNat → t.mem.read a = s.mem.read a) ∧
    t.status.illCmd = s.status.illCmd ∧
    (i ≠ .rxInit → t.status.argErr = s.status.argErr) ∧ (i ≠ .rxNextBit c → t.status.rxOvf = s.status.rxOvf) ∧
    (i = .rxInit → t.resRx = s.resRx)

/-- R192: the mode of the RX engine after a command: RX_INIT enters RX_FIRST_FLAG_MODE from any mode; RX_NEXT_BIT makes the
table's transitions, in the table's conditions; no other command changes RX_MODE. -/
def Obligations.RxTransitionTable : Prop :=
  ∀ (s t : State) (i : Instr), exec i s = .next t → RxInv s.rx → t.rx.mode ≠ s.rx.mode →
    (i = .rxInit ∧ t.rx.mode = .firstFlag) ∨
    (∃ c, i = .rxNextBit c ∧
      ((s.rx.mode = .firstFlag ∧ t.rx.mode = .flags ∧ t.rx.acc = 0x7E ∧ t.rx.idx = 1) ∨
       (s.rx.mode = .flags ∧ t.rx.mode = .data ∧ s.rx.bitpos = 7 ∧ t.rx.acc ≠ 0x7E ∧ t.rx.idx = 2 ∧ t.rx.ones = 0) ∨
       (s.rx.mode = .data ∧ t.rx.mode = .off ∧ s.rx.ones = 5 ∧ decodedBit c s.rx = true ∧ s.rx.idx.toNat < 276 ∧
         t.resRx = false) ∨
       (s.rx.mode = .data ∧ t.rx.mode = .firstFlag ∧ s.rx.idx = 276 ∧ t.status.rxOvf = true)))

/-- R190: RES_RX is 0 after an RX_NEXT_BIT only when it completes a frame: in RX_DATA_MODE, turning the engine off. -/
def Obligations.RxNextBitReturnsZeroOnlyAtFrameEnd : Prop :=
  ∀ (s t : State) (c : Bool), exec (.rxNextBit c) s = .next t →
    (t.resRx = false ↔ s.rx.mode = .data ∧ t.rx.mode = .off)

/-- R182: the descrambled bits obey d_t = y_t ^ y_{t-12} ^ y_{t-17}, where a y before the first step is a bit of RX_SCR. -/
def Obligations.DescramblerLaw : Prop :=
  ∀ (r : Rx) (cs : List Bool) (k : Nat), k < cs.length →
    let past := fun j => if j ≤ k then cs.getD (k - j) false else r.scr.getLsbD (j - k - 1)
    (descrambledBits r cs).getD k false = (cs.getD k false ^^ past 12 ^^ past 17)

/-- R182, R144, R183, R196: the receiver locks without a shared seed: fed the transmitter's line bits, from the 18th bit on its
descrambled bit is the transmitter's line-level bit, and from the 19th on its decoded bit is the transmitter's logical bit,
whatever the two engines held at first. -/
def Obligations.ReceiverLocksWithoutSharedSeed : Prop :=
  ∀ (t : Tx) (r : Rx) (bs : List Bool) (k : Nat), k < bs.length →
    (17 ≤ k → (descrambledBits r (lineBits t bs)).getD k false = (levelBits t bs).getD k false) ∧
    (18 ≤ k → (decodedBits r (lineBits t bs)).getD k false = bs.getD k false) ∧
    (17 ≤ bs.length → (decodeAll r (lineBits t bs)).scr = (emitAll t bs).scr)

/-- R197, for any frame buffer: from equal scrambler registers, with both engines just initialised, a loopback delivers the
TX buffer's bytes 1..L-2 between two flags into the RX buffer, for every CFG_PRE and CFG_POST, every content that meets the
conditions of R199, and buffers that do not overlap. Exactly one RX_NEXT_BIT returns 0, the one fed the 7th bit of the first
postamble flag; the scrambler registers are equal again, and no other byte of memory changes. The
run is of `exec`, so the contended bytes and the tick stay; a byte a third agent is writing reads as one free value
throughout, the model's form: log entry 6. -/
def Obligations.LoopbackRoundTrip : Prop :=
  ∀ (s : State) (a r : Word) (len : Nat) (b0 b1 : Byte) (others : List Byte) (before : Tx) (beforeRx : Rx),
    let bytes := b0 :: b1 :: others
    Memory.wf s.mem = true →
    s.tx = { before with mode := .delayFlag, bitpos := 0, idx := 0, ones := 0, nrzi := true,
                         flagcnt := flagCount s.cfgPre, base := a, len := BitVec.ofNat 9 len } →
    s.rx = { beforeRx with mode := .firstFlag, bitpos := 0, idx := 0, ones := 0, acc := 0, nrzi := true, base := r } →
    s.rx.scr = s.tx.scr →
    len = bytes.length + 2 → len ≤ 276 → a.toNat + len ≤ 4294967296 → r.toNat + 276 ≤ 4294967296 →
    (a.toNat + len ≤ r.toNat ∨ r.toNat + len ≤ a.toNat) →
    headerRoundTrips b0 b1 = true →
    (∀ k x, bytes[k]? = some x → busRead s.bus .txBit s.mem (a.toNat + 1 + k) = .ok x) →
    let bits := frameStream s.cfgPre s.cfgPost bytes
    let last := (flagStream s.cfgPre).length + (dataStream bytes).length + 6
    ∃ (results : List (Bool × Bool)) (t : State), loopRun bits.length s = some (results, t) ∧
      results.map Prod.fst = List.replicate (bits.length - 1) true ++ [false] ∧
      results.map Prod.snd = (List.range bits.length).map (fun k => k != last) ∧
      t.tx.mode = .off ∧ t.rx.mode = .off ∧ t.rx.scr = t.tx.scr ∧ receivedLength t = len ∧
      t.mem.read r.toNat = some 0x7E ∧
      (∀ k x, bytes[k]? = some x → t.mem.read (r.toNat + 1 + k) = some x) ∧
      t.mem.read (r.toNat + len - 1) = some 0x7E ∧
      ∀ b, b < r.toNat ∨ r.toNat + len ≤ b → t.mem.read b = s.mem.read b

/-! ## The whole machine -/

/-- R44, R45 at reset. -/
def Obligations.ResetMeetsTheInvariant : Prop := MachineInv State.reset

/-- R44, R45, R61: "Every command keeps them": every step from a state that meets the invariant gives one that does. -/
def Obligations.StepKeepsTheInvariant : Prop :=
  ∀ s t : State, MachineInv s → step s = .next t → MachineInv t

/-- R69: no command makes an access at or above 2^ADDR_W: from a state that meets the invariant, a step stops only at a byte
that nothing has written (R76). -/
def Obligations.StepsStopOnlyAtUnwrittenBytes : Prop :=
  ∀ s : State, MachineInv s →
    (∃ t, step s = .next t) ∨ (∃ a, step s = .fault (.unwrittenRead a) ∧ s.mem.read a = none)

/-- R240, R29: a command never clears a STATUS bit, and sets at most one. -/
def Obligations.StatusBitsAreSticky : Prop :=
  ∀ (s t : State) (i : Instr), exec i s = .next t →
    t.status = s.status ∨ t.status = { s.status with argErr := true } ∨ t.status = { s.status with rxOvf := true }

/-- R240, R51: commands run the same whatever STATUS, RES_CORE, RES_TX and RES_RX hold: two runs that differ only there go
the same way, with the same engines, memory and configuration after. -/
def Obligations.ResultsAndStatusAreNotInputs : Prop :=
  ∀ (s t : State) (i : Instr) (st : Status) (rc : Word) (rt rr : Bool), exec i s = .next t →
    ∃ u, exec i { s with status := st, resCore := rc, resTx := rt, resRx := rr } = .next u ∧
      u.tx = t.tx ∧ u.rx = t.rx ∧ u.mem = t.mem ∧ u.cfgPre = t.cfgPre ∧ u.cfgPost = t.cfgPost ∧
      (t.resCore = s.resCore ∧ u.resCore = rc ∨ u.resCore = t.resCore) ∧
      (t.resTx = s.resTx ∧ u.resTx = rt ∨ u.resTx = t.resTx) ∧
      (t.resRx = s.resRx ∧ u.resRx = rr ∨ u.resRx = t.resRx)

/-- R25, R30, R31, R44: no command changes ARG0..ARG2, CFG_PRE or CFG_POST, and in TX_OFF no command but TX_INIT changes a
TX variable other than TX_NRZI, TX_LINE and TX_SCR. -/
def Obligations.CommandsKeepOperandsAndTheIdleEngine : Prop :=
  ∀ (s t : State) (i : Instr), exec i s = .next t →
    t.arg0 = s.arg0 ∧ t.arg1 = s.arg1 ∧ t.arg2 = s.arg2 ∧ t.cfgPre = s.cfgPre ∧ t.cfgPost = s.cfgPost ∧
    (TxInv s.tx → s.tx.mode = .off → i ≠ .txInit →
      t.tx = { s.tx with nrzi := t.tx.nrzi, line := t.tx.line, scr := t.tx.scr })

/-- R50, R254: a TX command and an RX command give the same state in either order, unless the byte the one reads is the
byte the other may write (R77). -/
def Obligations.DirectionsRunIndependently : Prop :=
  ∀ (s u v : State) (b c : Bool) (i j : Instr),
    i ∈ [.txInit, .txBit b, .txCheckStuffing, .txNextBit] → j ∈ [.rxInit, .rxBit c, .rxCheckStuffing c, .rxNextBit c] →
    Memory.wf s.mem = true →
    (i = .txNextBit → s.tx.mode = .data → j = .rxNextBit c →
      s.tx.base.toNat + s.tx.idx.toNat ≠ s.rx.base.toNat + s.rx.idx.toNat) →
    exec i s = .next u → exec j u = .next v →
    ∃ w, exec j s = .next w ∧ exec i w = .next v
end

