-- ==== Sys2Proof/Laws/Memory.lean ====
section
/-!
SUPPORT. The laws of the buffer memory: read after write, the canonical form, and what each access of the memory port can
do (spec/20_memory.md R61, R69, R72, R76).
-/

namespace Sys2Proof.Machine

/-! ## The canonical form -/

theorem Memory.risingFrom_mono {lo lo' : Nat} (h : lo' ≤ lo) :
    ∀ {m : Memory}, Memory.risingFrom lo m = true → Memory.risingFrom lo' m = true
  | [], _ => rfl
  | (a, _) :: _, hm => by
    simp only [Memory.risingFrom, Bool.and_eq_true, decide_eq_true_eq] at hm ⊢
    exact ⟨⟨by omega, hm.1.2⟩, hm.2⟩

theorem Memory.risingFrom_write {a : Nat} {v : Byte} (ha : a < Config.addressSpace) :
    ∀ {lo : Nat} {m : Memory}, lo ≤ a → Memory.risingFrom lo m = true → Memory.risingFrom lo (m.write a v) = true
  | lo, [], hlo, _ => by
    simp only [Memory.write, Memory.risingFrom, Bool.and_eq_true, decide_eq_true_eq, and_true]
    exact ⟨hlo, ha⟩
  | lo, (b, w) :: rest, hlo, hm => by
    simp only [Memory.risingFrom, Bool.and_eq_true, decide_eq_true_eq] at hm
    unfold Memory.write
    split
    · rename_i hab
      simp only [Memory.risingFrom, Bool.and_eq_true, decide_eq_true_eq]
      exact ⟨⟨hlo, ha⟩, ⟨by omega, hm.1.2⟩, hm.2⟩
    · split
      · rename_i _ hab
        subst hab
        simp only [Memory.risingFrom, Bool.and_eq_true, decide_eq_true_eq]
        exact ⟨⟨hlo, ha⟩, hm.2⟩
      · simp only [Memory.risingFrom, Bool.and_eq_true, decide_eq_true_eq]
        exact ⟨hm.1, Memory.risingFrom_write ha (by omega) hm.2⟩

/-- A write below 2^ADDR_W keeps the canonical form. -/
theorem Memory.wf_write {m : Memory} {a : Nat} {v : Byte} (ha : a < Config.addressSpace) (h : m.wf = true) :
    (m.write a v).wf = true :=
  Memory.risingFrom_write ha (Nat.zero_le a) h

theorem Memory.wf_nil : Memory.wf [] = true := rfl

/-! ## Read after write -/

@[simp] theorem Memory.read_nil (a : Nat) : Memory.read [] a = none := rfl

/-- A read of the written address gives the written byte, whatever the memory. -/
@[simp] theorem Memory.read_write_same (m : Memory) (a : Nat) (v : Byte) : (m.write a v).read a = some v := by
  induction m with
  | nil => simp [Memory.write, Memory.read]
  | cons cell rest ih =>
    obtain ⟨b, w⟩ := cell
    unfold Memory.write
    split
    · simp [Memory.read]
    · split
      · simp [Memory.read]
      · rename_i h1 h2
        simp [Memory.read, h1, h2, ih]

theorem Memory.read_below : ∀ {lo : Nat} {m : Memory} {a : Nat}, Memory.risingFrom lo m = true → a < lo → m.read a = none
  | _, [], _, _, _ => rfl
  | lo, (b, _) :: _, a, hm, ha => by
    simp only [Memory.risingFrom, Bool.and_eq_true, decide_eq_true_eq] at hm
    have h1 : a ≠ b := by omega
    have h2 : a < b := by omega
    simp [Memory.read, h1, h2, Memory.unlisted]

theorem Memory.read_write_ne_rising {a b : Nat} {v : Byte} (hab : b ≠ a) :
    ∀ {lo : Nat} {m : Memory}, Memory.risingFrom lo m = true → (m.write a v).read b = m.read b
  | _, [], _ => by
    simp only [Memory.write, Memory.read, hab, if_false, Memory.unlisted, ite_self]
  | lo, (c, w) :: rest, hm => by
    simp only [Memory.risingFrom, Bool.and_eq_true, decide_eq_true_eq] at hm
    unfold Memory.write
    split
    · rename_i hac
      by_cases hba : b < a
      · have h1 : b ≠ c := by omega
        have h2 : b < c := by omega
        simp [Memory.read, hab, hba, h1, h2]
      · rw [Memory.read]
        simp [hab, hba]
    · split
      · rename_i _ hac
        subst hac
        by_cases hba : b < a
        · simp [Memory.read, hab, hba]
        · simp [Memory.read, hab, hba]
      · rename_i h1 h2
        simp only [Memory.read]
        split
        · rfl
        · split
          · rfl
          · exact Memory.read_write_ne_rising hab hm.2

/-- A write leaves every other address alone. -/
theorem Memory.read_write_ne {m : Memory} {a b : Nat} {v : Byte} (h : m.wf = true) (hab : b ≠ a) :
    (m.write a v).read b = m.read b :=
  Memory.read_write_ne_rising hab h

/-- Both at once. -/
theorem Memory.read_write {m : Memory} {a b : Nat} {v : Byte} (h : m.wf = true) :
    (m.write a v).read b = if b = a then some v else m.read b := by
  split
  · subst b; simp
  · exact Memory.read_write_ne h ‹_›

/-- A canonical memory holds nothing at or above 2^ADDR_W. -/
theorem Memory.read_lt : ∀ {lo : Nat} {m : Memory} {a : Nat} {v : Byte}, Memory.risingFrom lo m = true →
    m.read a = some v → a < Config.addressSpace
  | _, [], _, _, _, h => by simp at h
  | lo, (b, _) :: rest, a, v, hm, h => by
    simp only [Memory.risingFrom, Bool.and_eq_true, decide_eq_true_eq] at hm
    unfold Memory.read at h
    split at h
    · omega
    · split at h
      · simp [Memory.unlisted] at h
      · exact Memory.read_lt hm.2 h

/-! ## The memory port -/

/-- Everything a write can do. -/
theorem busWrite_ok {m m' : Memory} {a : Nat} {v : Byte} (h : busWrite m a v = .ok m') :
    a < Config.addressSpace ∧ m' = m.write a v := by
  unfold busWrite at h
  split at h
  · exact ⟨‹_›, by simpa using h.symm⟩
  · cases h

/-- A write below 2^ADDR_W goes through. -/
theorem busWrite_lt {m : Memory} {a : Nat} {v : Byte} (h : a < 4294967296) : busWrite m a v = .ok (m.write a v) := by
  simp [busWrite, h]

/-- Everything a read can do, when it answers a byte. -/
theorem busRead_ok {bus : Bus} {use : ReadUse} {m : Memory} {a : Nat} {x : Byte} (h : busRead bus use m a = .ok x) :
    a < Config.addressSpace ∧
      ((a ∈ bus.contended ∧ x = Config.freeByte bus.tick use a) ∨ (a ∉ bus.contended ∧ m.read a = some x)) := by
  unfold busRead at h
  split at h
  · refine ⟨‹_›, ?_⟩
    split at h
    · rename_i hc
      exact .inl ⟨by simpa using hc, by simpa using h.symm⟩
    · rename_i hc
      refine .inr ⟨by simpa using hc, ?_⟩
      split at h
      · simp_all
      · cases h
  · cases h

/-- Everything a read can do, when it stops. -/
theorem busRead_error {bus : Bus} {use : ReadUse} {m : Memory} {a : Nat} {f : Fault}
    (h : busRead bus use m a = .error f) :
    (f = .addressOutOfRange a ∧ Config.addressSpace ≤ a) ∨
      (f = .unwrittenRead a ∧ a < Config.addressSpace ∧ a ∉ bus.contended ∧ m.read a = none) := by
  unfold busRead at h
  split at h
  · rename_i ha
    split at h
    · cases h
    · rename_i hc
      split at h
      · cases h
      · rename_i hn
        refine .inr ⟨by simpa using h.symm, ha, by simpa using hc, ?_⟩
        simpa using hn
  · exact .inl ⟨by simpa using h.symm, by omega⟩

/-- A read depends on memory only at its own address. -/
theorem busRead_congr {bus : Bus} {use : ReadUse} {m m' : Memory} {a : Nat} (h : m.read a = m'.read a) :
    busRead bus use m a = busRead bus use m' a := by
  simp [busRead, h]

/-- A read of a byte memory holds and nobody is writing. -/
theorem busRead_held {bus : Bus} {use : ReadUse} {m : Memory} {a : Nat} {x : Byte} (h : a < 4294967296)
    (hc : a ∉ bus.contended) (hm : m.read a = some x) : busRead bus use m a = .ok x := by
  simp [busRead, h, hc, hm]

/-- A read of a byte a third agent is writing (spec/20_memory.md R72). -/
theorem busRead_contended {bus : Bus} {use : ReadUse} {m : Memory} {a : Nat} (h : a < 4294967296)
    (hc : a ∈ bus.contended) : busRead bus use m a = .ok (Config.freeByte bus.tick use a) := by
  simp [busRead, h, hc]

/-- Everything a sequence of writes can do: each byte lands, and nothing else changes. -/
theorem writeSeq_ok : ∀ {vs : List Byte} {m m' : Memory} {a : Nat}, m.wf = true → writeSeq m a vs = .ok m' →
    m'.wf = true ∧ (vs ≠ [] → a + vs.length ≤ Config.addressSpace) ∧
      ∀ b, m'.read b = if a ≤ b ∧ b < a + vs.length then vs[b - a]? else m.read b
  | [], m, m', a, hm, h => by
    simp only [writeSeq, Except.ok.injEq] at h
    subst h
    exact ⟨hm, by simp, fun b => by simp⟩
  | v :: vs, m, m', a, hm, h => by
    simp only [writeSeq, bind, Except.bind] at h
    split at h
    · cases h
    · rename_i m1 h1
      obtain ⟨ha, rfl⟩ := busWrite_ok h1
      obtain ⟨hw, hr, hread⟩ := writeSeq_ok (Memory.wf_write ha hm) h
      refine ⟨hw, fun _ => ?_, fun b => ?_⟩
      · simp only [List.length_cons]
        by_cases hvs : vs = []
        · subst hvs; simp only [List.length_nil]; omega
        · have := hr hvs; omega
      · rw [hread b, Memory.read_write hm]
        simp only [List.length_cons]
        by_cases hb : b = a
        · subst hb
          simp
        · by_cases hlt : a + 1 ≤ b ∧ b < a + 1 + vs.length
          · rw [if_pos hlt, if_pos (by omega)]
            have : b - a = (b - (a + 1)) + 1 := by omega
            rw [this, List.getElem?_cons_succ]
          · rw [if_neg hlt, if_neg hb, if_neg (by omega)]

/-- A sequence of writes below 2^ADDR_W goes through. -/
theorem writeSeq_lt : ∀ {vs : List Byte} {m : Memory} {a : Nat}, a + vs.length ≤ 4294967296 →
    ∃ m', writeSeq m a vs = .ok m'
  | [], m, _, _ => ⟨m, rfl⟩
  | v :: vs, m, a, h => by
    simp only [List.length_cons] at h
    obtain ⟨m', hm'⟩ := writeSeq_lt (vs := vs) (m := m.write a v) (a := a + 1) (by omega)
    exact ⟨m', by simp [writeSeq, busWrite_lt (show a < 4294967296 by omega), bind, Except.bind, hm']⟩

end Sys2Proof.Machine
end

