-- ==== Sys2Proof/Laws/Crc.lean ====
section
/-!
SUPPORT. What the CRC pass, the FCS stores, the info copy and the frame assembly can do (spec/40_crc.md,
spec/41_frame_assembler.md).
-/

namespace Sys2Proof.Machine

/-- Everything the CRC pass can do, when it completes: it folds the bytes it reads, one per address. -/
theorem crcLoop_ok {bus : Bus} {m : Memory} : ∀ {n a : Nat} {c c' : BitVec 16}, crcLoop bus m n a c = .ok c' →
    ∃ bytes : List Byte, bytes.length = n ∧ c' = bytes.foldl crcByte c ∧
      ∀ k x, bytes[k]? = some x → busRead bus .crc m (a + k) = .ok x
  | 0, a, c, c', h => ⟨[], rfl, by simpa [crcLoop] using h.symm, by simp⟩
  | n + 1, a, c, c', h => by
    simp only [crcLoop, bind, Except.bind] at h
    split at h
    · cases h
    · rename_i x hx
      obtain ⟨bytes, hlen, hc, hr⟩ := crcLoop_ok h
      refine ⟨x :: bytes, by simp [hlen], by simpa using hc, ?_⟩
      intro k y hk
      cases k with
      | zero =>
        obtain rfl : x = y := by simpa using hk
        exact hx
      | succ k =>
        simp only [List.getElem?_cons_succ] at hk
        have := hr k y hk
        rwa [show a + 1 + k = a + (k + 1) by omega] at this

/-- The CRC pass over readable bytes completes with their CRC. -/
theorem crcLoop_bytes {bus : Bus} {m : Memory} : ∀ {bytes : List Byte} {a : Nat} {c : BitVec 16},
    (∀ k x, bytes[k]? = some x → busRead bus .crc m (a + k) = .ok x) →
    crcLoop bus m bytes.length a c = .ok (bytes.foldl crcByte c)
  | [], _, _, _ => rfl
  | x :: bytes, a, c, h => by
    have h0 : busRead bus .crc m a = .ok x := h 0 x rfl
    have hs := crcLoop_bytes (bytes := bytes) (a := a + 1) (c := crcByte c x) fun k y hk => by
      have := h (k + 1) y (by simpa using hk)
      rwa [show a + (k + 1) = a + 1 + k by omega] at this
    simp only [List.length_cons, crcLoop, bind, Except.bind, h0, hs, List.foldl_cons]

/-- The CRC pass depends on memory only at the bytes it covers. -/
theorem crcLoop_congr {bus : Bus} {m m' : Memory} : ∀ {n a : Nat} {c : BitVec 16},
    (∀ b, a ≤ b → b < a + n → m.read b = m'.read b) → crcLoop bus m n a c = crcLoop bus m' n a c
  | 0, _, _, _ => rfl
  | n + 1, a, c, h => by
    have h0 : busRead bus .crc m a = busRead bus .crc m' a := busRead_congr (h a (by omega) (by omega))
    simp only [crcLoop, h0]
    congr 1
    funext x
    exact crcLoop_congr fun b h1 h2 => h b (by omega) (by omega)

theorem frameCrc_congr {bus : Bus} {m m' : Memory} {a len : Nat}
    (h : ∀ b, a + 1 ≤ b → b < a + 1 + (len - 4) → m.read b = m'.read b) :
    frameCrc bus m a len = frameCrc bus m' a len := by
  simp only [frameCrc, crcLoop_congr h]

/-- The computation of R101 over readable bytes. -/
theorem frameCrc_bytes {bus : Bus} {m : Memory} {bytes : List Byte} {a len : Nat} (hlen : bytes.length = len - 4)
    (h : ∀ k x, bytes[k]? = some x → busRead bus .crc m (a + 1 + k) = .ok x) :
    frameCrc bus m a len = .ok (crcOfBytes bytes) := by
  simp only [frameCrc, ← hlen, crcLoop_bytes h, bind, Except.bind, crcOfBytes]

/-- Everything the FCS stores can do: the CRC of the covered bytes lands at L-3 and L-2. -/
theorem crcPut_ok {bus : Bus} {m m' : Memory} {a len : Nat} {crc : BitVec 16} (h : crcPut bus m a len = .ok (m', crc)) :
    frameCrc bus m a len = .ok crc ∧ a + len - 3 < Config.addressSpace ∧ a + len - 2 < Config.addressSpace ∧
      m' = (m.write (a + len - 3) (crc.extractLsb' 0 8)).write (a + len - 2) (crc.extractLsb' 8 8) := by
  simp only [crcPut, bind, Except.bind] at h
  split at h
  · cases h
  · rename_i c hc
    split at h
    · cases h
    · rename_i m1 h1
      split at h
      · cases h
      · rename_i m2 h2
        obtain ⟨ha, rfl⟩ := busWrite_ok h1
        obtain ⟨hb, rfl⟩ := busWrite_ok h2
        simp only [Except.ok.injEq, Prod.mk.injEq] at h
        obtain ⟨rfl, rfl⟩ := h
        exact ⟨hc, ha, hb, rfl⟩

/-- The FCS stores go through below 2^ADDR_W. -/
theorem crcPut_eq {bus : Bus} {m : Memory} {a len : Nat} {crc : BitVec 16} (_hl : 3 ≤ len)
    (h : a + len ≤ 4294967296) (hc : frameCrc bus m a len = .ok crc) :
    crcPut bus m a len =
      .ok ((m.write (a + len - 3) (crc.extractLsb' 0 8)).write (a + len - 2) (crc.extractLsb' 8 8), crc) := by
  simp only [crcPut, bind, Except.bind, hc]
  rw [busWrite_lt (by omega)]
  simp only
  rw [busWrite_lt (by omega)]

/-- Everything the info copy can do: it writes only its destination. -/
theorem copyLoop_ok {bus : Bus} : ∀ {n src dst : Nat} {m m' : Memory}, m.wf = true →
    copyLoop bus n src dst m = .ok m' →
    m'.wf = true ∧ (∀ b, b < dst ∨ dst + n ≤ b → m'.read b = m.read b) ∧
      ∀ i < n, ∃ x, m'.read (dst + i) = some x
  | 0, _, _, m, m', hm, h => by
    simp only [copyLoop, Except.ok.injEq] at h
    subst h
    exact ⟨hm, fun _ _ => rfl, by simp⟩
  | n + 1, src, dst, m, m', hm, h => by
    simp only [copyLoop, bind, Except.bind] at h
    split at h
    · cases h
    · rename_i x hx
      split at h
      · cases h
      · rename_i m1 h1
        obtain ⟨ha, rfl⟩ := busWrite_ok h1
        obtain ⟨hw, hout, hin⟩ := copyLoop_ok (Memory.wf_write ha hm) h
        refine ⟨hw, fun b hb => ?_, fun i hi => ?_⟩
        · rw [hout b (by omega), Memory.read_write_ne hm (by omega)]
        · cases i with
          | zero => exact ⟨x, by rw [hout _ (by omega)]; simp⟩
          | succ i =>
            obtain ⟨y, hy⟩ := hin i (by omega)
            exact ⟨y, by rwa [show dst + 1 + i = dst + (i + 1) by omega] at hy⟩

end Sys2Proof.Machine
end

