-- ==== Sys2Proof/Laws/Encoding.lean ====
section
/-!
SUPPORT. The laws of the encoder and the decoder (spec/30_encoding.md R81, R82, R86).
-/

namespace Sys2Proof

/-- Every command decodes from its own word. -/
@[simp] theorem decode_encode (i : Instr) : decode (encode i) = .ok i := by
  cases i
  case txBit b => cases b <;> decide
  case rxBit c => cases c <;> decide
  case rxCheckStuffing c => cases c <;> decide
  case rxNextBit c => cases c <;> decide
  all_goals decide

/-- Two commands with one word are one command. -/
theorem encode_injective {i j : Instr} (h : encode i = encode j) : i = j := by
  have := decode_encode i
  rw [h, decode_encode] at this
  exact (Except.ok.inj this).symm

/-- Every command's word is well-formed. -/
theorem commandWordWf_encode (i : Instr) : commandWordWf (encode i) = true := by
  cases i
  case txBit b => cases b <;> decide
  case rxBit c => cases c <;> decide
  case rxCheckStuffing c => cases c <;> decide
  case rxNextBit c => cases c <;> decide
  all_goals decide

/-- What a decoded word satisfies: its reserved bits are 0, its fields name the command, and B is 1 only where the command
takes it. -/
theorem decode_ok {w : Word} {i : Instr} (h : decode w = .ok i) :
    rsv1Field w = 0 ∧ rsv0Field w = 0 ∧ commandOf (opField w) (bField w) = some i ∧
      (bField w = true → takesOperand (opField w) = true) := by
  unfold decode at h
  split at h
  · cases h
  · rename_i hr
    simp only [Bool.or_eq_true, bne_iff_ne, not_or, not_not] at hr
    split at h
    · cases h
    · rename_i j hj
      split at h
      · cases h
      · rename_i hb
        simp only [Bool.and_eq_true, Bool.not_eq_true', not_and, Bool.not_eq_false] at hb
        refine ⟨hr.1, hr.2, ?_, hb⟩
        rw [hj]
        exact congrArg some (Except.ok.inj h)

end Sys2Proof
end

