-- ==== Sys2Proof/Laws/State.lean ====
section
/-!
SUPPORT. One lemma per field per update of the state, so that no later proof unfolds a record update.
-/

namespace Sys2Proof.Machine

/-! ### setResTx -/

@[simp] theorem setResTx_arg0 (b : Bool) (s : State) : (setResTx b s).arg0 = s.arg0 := rfl
@[simp] theorem setResTx_arg1 (b : Bool) (s : State) : (setResTx b s).arg1 = s.arg1 := rfl
@[simp] theorem setResTx_arg2 (b : Bool) (s : State) : (setResTx b s).arg2 = s.arg2 := rfl
@[simp] theorem setResTx_resCore (b : Bool) (s : State) : (setResTx b s).resCore = s.resCore := rfl
@[simp] theorem setResTx_resTx (b : Bool) (s : State) : (setResTx b s).resTx = b := rfl
@[simp] theorem setResTx_resRx (b : Bool) (s : State) : (setResTx b s).resRx = s.resRx := rfl
@[simp] theorem setResTx_status (b : Bool) (s : State) : (setResTx b s).status = s.status := rfl
@[simp] theorem setResTx_cfgPre (b : Bool) (s : State) : (setResTx b s).cfgPre = s.cfgPre := rfl
@[simp] theorem setResTx_cfgPost (b : Bool) (s : State) : (setResTx b s).cfgPost = s.cfgPost := rfl
@[simp] theorem setResTx_tx (b : Bool) (s : State) : (setResTx b s).tx = s.tx := rfl
@[simp] theorem setResTx_rx (b : Bool) (s : State) : (setResTx b s).rx = s.rx := rfl
@[simp] theorem setResTx_mem (b : Bool) (s : State) : (setResTx b s).mem = s.mem := rfl
@[simp] theorem setResTx_hostIn (b : Bool) (s : State) : (setResTx b s).hostIn = s.hostIn := rfl
@[simp] theorem setResTx_hostOut (b : Bool) (s : State) : (setResTx b s).hostOut = s.hostOut := rfl
@[simp] theorem setResTx_bus (b : Bool) (s : State) : (setResTx b s).bus = s.bus := rfl

/-! ### setResRx -/

@[simp] theorem setResRx_arg0 (b : Bool) (s : State) : (setResRx b s).arg0 = s.arg0 := rfl
@[simp] theorem setResRx_arg1 (b : Bool) (s : State) : (setResRx b s).arg1 = s.arg1 := rfl
@[simp] theorem setResRx_arg2 (b : Bool) (s : State) : (setResRx b s).arg2 = s.arg2 := rfl
@[simp] theorem setResRx_resCore (b : Bool) (s : State) : (setResRx b s).resCore = s.resCore := rfl
@[simp] theorem setResRx_resTx (b : Bool) (s : State) : (setResRx b s).resTx = s.resTx := rfl
@[simp] theorem setResRx_resRx (b : Bool) (s : State) : (setResRx b s).resRx = b := rfl
@[simp] theorem setResRx_status (b : Bool) (s : State) : (setResRx b s).status = s.status := rfl
@[simp] theorem setResRx_cfgPre (b : Bool) (s : State) : (setResRx b s).cfgPre = s.cfgPre := rfl
@[simp] theorem setResRx_cfgPost (b : Bool) (s : State) : (setResRx b s).cfgPost = s.cfgPost := rfl
@[simp] theorem setResRx_tx (b : Bool) (s : State) : (setResRx b s).tx = s.tx := rfl
@[simp] theorem setResRx_rx (b : Bool) (s : State) : (setResRx b s).rx = s.rx := rfl
@[simp] theorem setResRx_mem (b : Bool) (s : State) : (setResRx b s).mem = s.mem := rfl
@[simp] theorem setResRx_hostIn (b : Bool) (s : State) : (setResRx b s).hostIn = s.hostIn := rfl
@[simp] theorem setResRx_hostOut (b : Bool) (s : State) : (setResRx b s).hostOut = s.hostOut := rfl
@[simp] theorem setResRx_bus (b : Bool) (s : State) : (setResRx b s).bus = s.bus := rfl

/-! ### setResCore -/

@[simp] theorem setResCore_arg0 (v : Word) (s : State) : (setResCore v s).arg0 = s.arg0 := rfl
@[simp] theorem setResCore_arg1 (v : Word) (s : State) : (setResCore v s).arg1 = s.arg1 := rfl
@[simp] theorem setResCore_arg2 (v : Word) (s : State) : (setResCore v s).arg2 = s.arg2 := rfl
@[simp] theorem setResCore_resCore (v : Word) (s : State) : (setResCore v s).resCore = v := rfl
@[simp] theorem setResCore_resTx (v : Word) (s : State) : (setResCore v s).resTx = s.resTx := rfl
@[simp] theorem setResCore_resRx (v : Word) (s : State) : (setResCore v s).resRx = s.resRx := rfl
@[simp] theorem setResCore_status (v : Word) (s : State) : (setResCore v s).status = s.status := rfl
@[simp] theorem setResCore_cfgPre (v : Word) (s : State) : (setResCore v s).cfgPre = s.cfgPre := rfl
@[simp] theorem setResCore_cfgPost (v : Word) (s : State) : (setResCore v s).cfgPost = s.cfgPost := rfl
@[simp] theorem setResCore_tx (v : Word) (s : State) : (setResCore v s).tx = s.tx := rfl
@[simp] theorem setResCore_rx (v : Word) (s : State) : (setResCore v s).rx = s.rx := rfl
@[simp] theorem setResCore_mem (v : Word) (s : State) : (setResCore v s).mem = s.mem := rfl
@[simp] theorem setResCore_hostIn (v : Word) (s : State) : (setResCore v s).hostIn = s.hostIn := rfl
@[simp] theorem setResCore_hostOut (v : Word) (s : State) : (setResCore v s).hostOut = s.hostOut := rfl
@[simp] theorem setResCore_bus (v : Word) (s : State) : (setResCore v s).bus = s.bus := rfl

/-! ### clearStatus -/

@[simp] theorem clearStatus_arg0 (v : Word) (s : State) : (clearStatus v s).arg0 = s.arg0 := rfl
@[simp] theorem clearStatus_arg1 (v : Word) (s : State) : (clearStatus v s).arg1 = s.arg1 := rfl
@[simp] theorem clearStatus_arg2 (v : Word) (s : State) : (clearStatus v s).arg2 = s.arg2 := rfl
@[simp] theorem clearStatus_resCore (v : Word) (s : State) : (clearStatus v s).resCore = s.resCore := rfl
@[simp] theorem clearStatus_resTx (v : Word) (s : State) : (clearStatus v s).resTx = s.resTx := rfl
@[simp] theorem clearStatus_resRx (v : Word) (s : State) : (clearStatus v s).resRx = s.resRx := rfl
@[simp] theorem clearStatus_status (v : Word) (s : State) : (clearStatus v s).status = { illCmd := s.status.illCmd && !v.getLsbD 0, argErr := s.status.argErr && !v.getLsbD 1, rxOvf := s.status.rxOvf && !v.getLsbD 2 } := rfl
@[simp] theorem clearStatus_cfgPre (v : Word) (s : State) : (clearStatus v s).cfgPre = s.cfgPre := rfl
@[simp] theorem clearStatus_cfgPost (v : Word) (s : State) : (clearStatus v s).cfgPost = s.cfgPost := rfl
@[simp] theorem clearStatus_tx (v : Word) (s : State) : (clearStatus v s).tx = s.tx := rfl
@[simp] theorem clearStatus_rx (v : Word) (s : State) : (clearStatus v s).rx = s.rx := rfl
@[simp] theorem clearStatus_mem (v : Word) (s : State) : (clearStatus v s).mem = s.mem := rfl
@[simp] theorem clearStatus_hostIn (v : Word) (s : State) : (clearStatus v s).hostIn = s.hostIn := rfl
@[simp] theorem clearStatus_hostOut (v : Word) (s : State) : (clearStatus v s).hostOut = s.hostOut := rfl
@[simp] theorem clearStatus_bus (v : Word) (s : State) : (clearStatus v s).bus = s.bus := rfl

/-! ### endCommand -/

@[simp] theorem endCommand_arg0 (s : State) : (endCommand s).arg0 = s.arg0 := rfl
@[simp] theorem endCommand_arg1 (s : State) : (endCommand s).arg1 = s.arg1 := rfl
@[simp] theorem endCommand_arg2 (s : State) : (endCommand s).arg2 = s.arg2 := rfl
@[simp] theorem endCommand_resCore (s : State) : (endCommand s).resCore = s.resCore := rfl
@[simp] theorem endCommand_resTx (s : State) : (endCommand s).resTx = s.resTx := rfl
@[simp] theorem endCommand_resRx (s : State) : (endCommand s).resRx = s.resRx := rfl
@[simp] theorem endCommand_status (s : State) : (endCommand s).status = s.status := rfl
@[simp] theorem endCommand_cfgPre (s : State) : (endCommand s).cfgPre = s.cfgPre := rfl
@[simp] theorem endCommand_cfgPost (s : State) : (endCommand s).cfgPost = s.cfgPost := rfl
@[simp] theorem endCommand_tx (s : State) : (endCommand s).tx = s.tx := rfl
@[simp] theorem endCommand_rx (s : State) : (endCommand s).rx = s.rx := rfl
@[simp] theorem endCommand_mem (s : State) : (endCommand s).mem = s.mem := rfl
@[simp] theorem endCommand_hostIn (s : State) : (endCommand s).hostIn = s.hostIn := rfl
@[simp] theorem endCommand_hostOut (s : State) : (endCommand s).hostOut = s.hostOut := rfl
@[simp] theorem endCommand_bus (s : State) : (endCommand s).bus = { contended := [], tick := s.bus.tick + 1 } := rfl

/-! ### returnToHost -/

@[simp] theorem returnToHost_arg0 (v : Word) (s : State) : (returnToHost v s).arg0 = s.arg0 := rfl
@[simp] theorem returnToHost_arg1 (v : Word) (s : State) : (returnToHost v s).arg1 = s.arg1 := rfl
@[simp] theorem returnToHost_arg2 (v : Word) (s : State) : (returnToHost v s).arg2 = s.arg2 := rfl
@[simp] theorem returnToHost_resCore (v : Word) (s : State) : (returnToHost v s).resCore = s.resCore := rfl
@[simp] theorem returnToHost_resTx (v : Word) (s : State) : (returnToHost v s).resTx = s.resTx := rfl
@[simp] theorem returnToHost_resRx (v : Word) (s : State) : (returnToHost v s).resRx = s.resRx := rfl
@[simp] theorem returnToHost_status (v : Word) (s : State) : (returnToHost v s).status = s.status := rfl
@[simp] theorem returnToHost_cfgPre (v : Word) (s : State) : (returnToHost v s).cfgPre = s.cfgPre := rfl
@[simp] theorem returnToHost_cfgPost (v : Word) (s : State) : (returnToHost v s).cfgPost = s.cfgPost := rfl
@[simp] theorem returnToHost_tx (v : Word) (s : State) : (returnToHost v s).tx = s.tx := rfl
@[simp] theorem returnToHost_rx (v : Word) (s : State) : (returnToHost v s).rx = s.rx := rfl
@[simp] theorem returnToHost_mem (v : Word) (s : State) : (returnToHost v s).mem = s.mem := rfl
@[simp] theorem returnToHost_hostIn (v : Word) (s : State) : (returnToHost v s).hostIn = s.hostIn := rfl
@[simp] theorem returnToHost_hostOut (v : Word) (s : State) : (returnToHost v s).hostOut = v :: s.hostOut := rfl
@[simp] theorem returnToHost_bus (v : Word) (s : State) : (returnToHost v s).bus = s.bus := rfl

/-! ### hostStore -/

@[simp] theorem hostStore_arg0 (a : Word) (v : Byte) (s : State) : (hostStore a v s).arg0 = s.arg0 := rfl
@[simp] theorem hostStore_arg1 (a : Word) (v : Byte) (s : State) : (hostStore a v s).arg1 = s.arg1 := rfl
@[simp] theorem hostStore_arg2 (a : Word) (v : Byte) (s : State) : (hostStore a v s).arg2 = s.arg2 := rfl
@[simp] theorem hostStore_resCore (a : Word) (v : Byte) (s : State) : (hostStore a v s).resCore = s.resCore := rfl
@[simp] theorem hostStore_resTx (a : Word) (v : Byte) (s : State) : (hostStore a v s).resTx = s.resTx := rfl
@[simp] theorem hostStore_resRx (a : Word) (v : Byte) (s : State) : (hostStore a v s).resRx = s.resRx := rfl
@[simp] theorem hostStore_status (a : Word) (v : Byte) (s : State) : (hostStore a v s).status = s.status := rfl
@[simp] theorem hostStore_cfgPre (a : Word) (v : Byte) (s : State) : (hostStore a v s).cfgPre = s.cfgPre := rfl
@[simp] theorem hostStore_cfgPost (a : Word) (v : Byte) (s : State) : (hostStore a v s).cfgPost = s.cfgPost := rfl
@[simp] theorem hostStore_tx (a : Word) (v : Byte) (s : State) : (hostStore a v s).tx = s.tx := rfl
@[simp] theorem hostStore_rx (a : Word) (v : Byte) (s : State) : (hostStore a v s).rx = s.rx := rfl
@[simp] theorem hostStore_mem (a : Word) (v : Byte) (s : State) : (hostStore a v s).mem = s.mem.write a.toNat v := rfl
@[simp] theorem hostStore_hostIn (a : Word) (v : Byte) (s : State) : (hostStore a v s).hostIn = s.hostIn := rfl
@[simp] theorem hostStore_hostOut (a : Word) (v : Byte) (s : State) : (hostStore a v s).hostOut = s.hostOut := rfl
@[simp] theorem hostStore_bus (a : Word) (v : Byte) (s : State) : (hostStore a v s).bus = s.bus := rfl

/-! ### contendByte -/

@[simp] theorem contendByte_arg0 (a : Word) (s : State) : (contendByte a s).arg0 = s.arg0 := rfl
@[simp] theorem contendByte_arg1 (a : Word) (s : State) : (contendByte a s).arg1 = s.arg1 := rfl
@[simp] theorem contendByte_arg2 (a : Word) (s : State) : (contendByte a s).arg2 = s.arg2 := rfl
@[simp] theorem contendByte_resCore (a : Word) (s : State) : (contendByte a s).resCore = s.resCore := rfl
@[simp] theorem contendByte_resTx (a : Word) (s : State) : (contendByte a s).resTx = s.resTx := rfl
@[simp] theorem contendByte_resRx (a : Word) (s : State) : (contendByte a s).resRx = s.resRx := rfl
@[simp] theorem contendByte_status (a : Word) (s : State) : (contendByte a s).status = s.status := rfl
@[simp] theorem contendByte_cfgPre (a : Word) (s : State) : (contendByte a s).cfgPre = s.cfgPre := rfl
@[simp] theorem contendByte_cfgPost (a : Word) (s : State) : (contendByte a s).cfgPost = s.cfgPost := rfl
@[simp] theorem contendByte_tx (a : Word) (s : State) : (contendByte a s).tx = s.tx := rfl
@[simp] theorem contendByte_rx (a : Word) (s : State) : (contendByte a s).rx = s.rx := rfl
@[simp] theorem contendByte_mem (a : Word) (s : State) : (contendByte a s).mem = s.mem := rfl
@[simp] theorem contendByte_hostIn (a : Word) (s : State) : (contendByte a s).hostIn = s.hostIn := rfl
@[simp] theorem contendByte_hostOut (a : Word) (s : State) : (contendByte a s).hostOut = s.hostOut := rfl
@[simp] theorem contendByte_bus (a : Word) (s : State) : (contendByte a s).bus = { s.bus with contended := a.toNat :: s.bus.contended } := rfl

/-! ### queueCommand -/

@[simp] theorem queueCommand_arg0 (v : Word) (s : State) : (queueCommand v s).arg0 = s.arg0 := rfl
@[simp] theorem queueCommand_arg1 (v : Word) (s : State) : (queueCommand v s).arg1 = s.arg1 := rfl
@[simp] theorem queueCommand_arg2 (v : Word) (s : State) : (queueCommand v s).arg2 = s.arg2 := rfl
@[simp] theorem queueCommand_resCore (v : Word) (s : State) : (queueCommand v s).resCore = s.resCore := rfl
@[simp] theorem queueCommand_resTx (v : Word) (s : State) : (queueCommand v s).resTx = s.resTx := rfl
@[simp] theorem queueCommand_resRx (v : Word) (s : State) : (queueCommand v s).resRx = s.resRx := rfl
@[simp] theorem queueCommand_status (v : Word) (s : State) : (queueCommand v s).status = s.status := rfl
@[simp] theorem queueCommand_cfgPre (v : Word) (s : State) : (queueCommand v s).cfgPre = s.cfgPre := rfl
@[simp] theorem queueCommand_cfgPost (v : Word) (s : State) : (queueCommand v s).cfgPost = s.cfgPost := rfl
@[simp] theorem queueCommand_tx (v : Word) (s : State) : (queueCommand v s).tx = s.tx := rfl
@[simp] theorem queueCommand_rx (v : Word) (s : State) : (queueCommand v s).rx = s.rx := rfl
@[simp] theorem queueCommand_mem (v : Word) (s : State) : (queueCommand v s).mem = s.mem := rfl
@[simp] theorem queueCommand_hostIn (v : Word) (s : State) : (queueCommand v s).hostIn = .regWrite .word 0x00 v :: s.hostIn := rfl
@[simp] theorem queueCommand_hostOut (v : Word) (s : State) : (queueCommand v s).hostOut = s.hostOut := rfl
@[simp] theorem queueCommand_bus (v : Word) (s : State) : (queueCommand v s).bus = s.bus := rfl

/-! ### resetCore -/

@[simp] theorem resetCore_arg0 (s : State) : (resetCore s).arg0 = State.reset.arg0 := rfl
@[simp] theorem resetCore_arg1 (s : State) : (resetCore s).arg1 = State.reset.arg1 := rfl
@[simp] theorem resetCore_arg2 (s : State) : (resetCore s).arg2 = State.reset.arg2 := rfl
@[simp] theorem resetCore_resCore (s : State) : (resetCore s).resCore = State.reset.resCore := rfl
@[simp] theorem resetCore_resTx (s : State) : (resetCore s).resTx = State.reset.resTx := rfl
@[simp] theorem resetCore_resRx (s : State) : (resetCore s).resRx = State.reset.resRx := rfl
@[simp] theorem resetCore_status (s : State) : (resetCore s).status = State.reset.status := rfl
@[simp] theorem resetCore_cfgPre (s : State) : (resetCore s).cfgPre = State.reset.cfgPre := rfl
@[simp] theorem resetCore_cfgPost (s : State) : (resetCore s).cfgPost = State.reset.cfgPost := rfl
@[simp] theorem resetCore_tx (s : State) : (resetCore s).tx = State.reset.tx := rfl
@[simp] theorem resetCore_rx (s : State) : (resetCore s).rx = State.reset.rx := rfl
@[simp] theorem resetCore_mem (s : State) : (resetCore s).mem = s.mem := rfl
@[simp] theorem resetCore_hostIn (s : State) : (resetCore s).hostIn = s.hostIn := rfl
@[simp] theorem resetCore_hostOut (s : State) : (resetCore s).hostOut = s.hostOut := rfl
@[simp] theorem resetCore_bus (s : State) : (resetCore s).bus = s.bus := rfl

/-! ### raiseError -/

@[simp] theorem raiseError_arg0 (e : ErrorCode) (s : State) : (raiseError e s).arg0 = s.arg0 := by cases e <;> rfl
@[simp] theorem raiseError_arg1 (e : ErrorCode) (s : State) : (raiseError e s).arg1 = s.arg1 := by cases e <;> rfl
@[simp] theorem raiseError_arg2 (e : ErrorCode) (s : State) : (raiseError e s).arg2 = s.arg2 := by cases e <;> rfl
@[simp] theorem raiseError_resCore (e : ErrorCode) (s : State) : (raiseError e s).resCore = s.resCore := by cases e <;> rfl
@[simp] theorem raiseError_resTx (e : ErrorCode) (s : State) : (raiseError e s).resTx = s.resTx := by cases e <;> rfl
@[simp] theorem raiseError_resRx (e : ErrorCode) (s : State) : (raiseError e s).resRx = s.resRx := by cases e <;> rfl
@[simp] theorem raiseError_illCmd_status (s : State) :
    (raiseError .illCmd s).status = { s.status with illCmd := true } := rfl
@[simp] theorem raiseError_argErr_status (s : State) :
    (raiseError .argErr s).status = { s.status with argErr := true } := rfl
@[simp] theorem raiseError_rxOvf_status (s : State) :
    (raiseError .rxOvf s).status = { s.status with rxOvf := true } := rfl
@[simp] theorem raiseError_cfgPre (e : ErrorCode) (s : State) : (raiseError e s).cfgPre = s.cfgPre := by cases e <;> rfl
@[simp] theorem raiseError_cfgPost (e : ErrorCode) (s : State) : (raiseError e s).cfgPost = s.cfgPost := by cases e <;> rfl
@[simp] theorem raiseError_tx (e : ErrorCode) (s : State) : (raiseError e s).tx = s.tx := by cases e <;> rfl
@[simp] theorem raiseError_rx (e : ErrorCode) (s : State) : (raiseError e s).rx = s.rx := by cases e <;> rfl
@[simp] theorem raiseError_mem (e : ErrorCode) (s : State) : (raiseError e s).mem = s.mem := by cases e <;> rfl
@[simp] theorem raiseError_hostIn (e : ErrorCode) (s : State) : (raiseError e s).hostIn = s.hostIn := by cases e <;> rfl
@[simp] theorem raiseError_hostOut (e : ErrorCode) (s : State) : (raiseError e s).hostOut = s.hostOut := by cases e <;> rfl
@[simp] theorem raiseError_bus (e : ErrorCode) (s : State) : (raiseError e s).bus = s.bus := by cases e <;> rfl

/-! ### The transmit engine's updates -/

@[simp] theorem emitBit_mode (b : Bool) (t : Tx) : (emitBit b t).mode = t.mode := rfl
@[simp] theorem emitBit_bitpos (b : Bool) (t : Tx) : (emitBit b t).bitpos = t.bitpos := rfl
@[simp] theorem emitBit_ones (b : Bool) (t : Tx) : (emitBit b t).ones = t.ones := rfl
@[simp] theorem emitBit_nrzi (b : Bool) (t : Tx) : (emitBit b t).nrzi = nrziEncode t.nrzi b := rfl
@[simp] theorem emitBit_line (b : Bool) (t : Tx) : (emitBit b t).line = (nrziEncode t.nrzi b ^^ scramblerTaps t.scr) := rfl
@[simp] theorem emitBit_idx (b : Bool) (t : Tx) : (emitBit b t).idx = t.idx := rfl
@[simp] theorem emitBit_flagcnt (b : Bool) (t : Tx) : (emitBit b t).flagcnt = t.flagcnt := rfl
theorem emitBit_scr (b : Bool) (t : Tx) : (emitBit b t).scr = scramblerShift t.scr (emitBit b t).line := rfl
@[simp] theorem emitBit_base (b : Bool) (t : Tx) : (emitBit b t).base = t.base := rfl
@[simp] theorem emitBit_len (b : Bool) (t : Tx) : (emitBit b t).len = t.len := rfl
@[simp] theorem txStart_mode (a len : Word) (pre : BitVec 16) (t : Tx) : (txStart a len pre t).mode = .delayFlag := rfl
@[simp] theorem txStart_bitpos (a len : Word) (pre : BitVec 16) (t : Tx) : (txStart a len pre t).bitpos = 0 := rfl
@[simp] theorem txStart_ones (a len : Word) (pre : BitVec 16) (t : Tx) : (txStart a len pre t).ones = 0 := rfl
@[simp] theorem txStart_nrzi (a len : Word) (pre : BitVec 16) (t : Tx) : (txStart a len pre t).nrzi = true := rfl
@[simp] theorem txStart_line (a len : Word) (pre : BitVec 16) (t : Tx) : (txStart a len pre t).line = t.line := rfl
@[simp] theorem txStart_idx (a len : Word) (pre : BitVec 16) (t : Tx) : (txStart a len pre t).idx = 0 := rfl
@[simp] theorem txStart_flagcnt (a len : Word) (pre : BitVec 16) (t : Tx) : (txStart a len pre t).flagcnt = flagCount pre := rfl
@[simp] theorem txStart_scr (a len : Word) (pre : BitVec 16) (t : Tx) : (txStart a len pre t).scr = t.scr := rfl
@[simp] theorem txStart_base (a len : Word) (pre : BitVec 16) (t : Tx) : (txStart a len pre t).base = a := rfl
@[simp] theorem txStart_len (a len : Word) (pre : BitVec 16) (t : Tx) : (txStart a len pre t).len = len.setWidth 9 := rfl
@[simp] theorem enterTail_mode (post : BitVec 16) (t : Tx) : (enterTail post t).mode = .tail := rfl
@[simp] theorem enterTail_bitpos (post : BitVec 16) (t : Tx) : (enterTail post t).bitpos = 0 := rfl
@[simp] theorem enterTail_ones (post : BitVec 16) (t : Tx) : (enterTail post t).ones = t.ones := rfl
@[simp] theorem enterTail_nrzi (post : BitVec 16) (t : Tx) : (enterTail post t).nrzi = t.nrzi := rfl
@[simp] theorem enterTail_line (post : BitVec 16) (t : Tx) : (enterTail post t).line = t.line := rfl
@[simp] theorem enterTail_idx (post : BitVec 16) (t : Tx) : (enterTail post t).idx = t.idx := rfl
@[simp] theorem enterTail_flagcnt (post : BitVec 16) (t : Tx) : (enterTail post t).flagcnt = flagCount post := rfl
@[simp] theorem enterTail_scr (post : BitVec 16) (t : Tx) : (enterTail post t).scr = t.scr := rfl
@[simp] theorem enterTail_base (post : BitVec 16) (t : Tx) : (enterTail post t).base = t.base := rfl
@[simp] theorem enterTail_len (post : BitVec 16) (t : Tx) : (enterTail post t).len = t.len := rfl
@[simp] theorem sendDataBit_mode (b : Bool) (t : Tx) : (sendDataBit b t).mode = (emitBit b t).mode := rfl
@[simp] theorem sendDataBit_bitpos (b : Bool) (t : Tx) : (sendDataBit b t).bitpos = t.bitpos + 1 := rfl
@[simp] theorem sendDataBit_ones (b : Bool) (t : Tx) : (sendDataBit b t).ones = if b then t.ones + 1 else 0 := rfl
@[simp] theorem sendDataBit_nrzi (b : Bool) (t : Tx) : (sendDataBit b t).nrzi = (emitBit b t).nrzi := rfl
@[simp] theorem sendDataBit_line (b : Bool) (t : Tx) : (sendDataBit b t).line = (emitBit b t).line := rfl
@[simp] theorem sendDataBit_idx (b : Bool) (t : Tx) : (sendDataBit b t).idx = if t.bitpos + 1 = 0 then t.idx + 1 else t.idx := rfl
@[simp] theorem sendDataBit_flagcnt (b : Bool) (t : Tx) : (sendDataBit b t).flagcnt = (emitBit b t).flagcnt := rfl
@[simp] theorem sendDataBit_scr (b : Bool) (t : Tx) : (sendDataBit b t).scr = (emitBit b t).scr := rfl
@[simp] theorem sendDataBit_base (b : Bool) (t : Tx) : (sendDataBit b t).base = (emitBit b t).base := rfl
@[simp] theorem sendDataBit_len (b : Bool) (t : Tx) : (sendDataBit b t).len = (emitBit b t).len := rfl

/-! ### The receive engine's updates -/

@[simp] theorem decodeBit_mode (c : Bool) (r : Rx) : (decodeBit c r).mode = r.mode := rfl
@[simp] theorem decodeBit_bitpos (c : Bool) (r : Rx) : (decodeBit c r).bitpos = r.bitpos := rfl
@[simp] theorem decodeBit_ones (c : Bool) (r : Rx) : (decodeBit c r).ones = r.ones := rfl
@[simp] theorem decodeBit_nrzi (c : Bool) (r : Rx) : (decodeBit c r).nrzi = descramble c r := rfl
@[simp] theorem decodeBit_idx (c : Bool) (r : Rx) : (decodeBit c r).idx = r.idx := rfl
@[simp] theorem decodeBit_scr (c : Bool) (r : Rx) : (decodeBit c r).scr = scramblerShift r.scr c := rfl
@[simp] theorem decodeBit_base (c : Bool) (r : Rx) : (decodeBit c r).base = r.base := rfl
@[simp] theorem decodeBit_acc (c : Bool) (r : Rx) : (decodeBit c r).acc = r.acc := rfl
@[simp] theorem accumulate_mode (d : Bool) (r : Rx) : (accumulate d r).mode = r.mode := rfl
@[simp] theorem accumulate_bitpos (d : Bool) (r : Rx) : (accumulate d r).bitpos = r.bitpos := rfl
@[simp] theorem accumulate_ones (d : Bool) (r : Rx) : (accumulate d r).ones = r.ones := rfl
@[simp] theorem accumulate_nrzi (d : Bool) (r : Rx) : (accumulate d r).nrzi = r.nrzi := rfl
@[simp] theorem accumulate_idx (d : Bool) (r : Rx) : (accumulate d r).idx = r.idx := rfl
@[simp] theorem accumulate_scr (d : Bool) (r : Rx) : (accumulate d r).scr = r.scr := rfl
@[simp] theorem accumulate_base (d : Bool) (r : Rx) : (accumulate d r).base = r.base := rfl
@[simp] theorem accumulate_acc (d : Bool) (r : Rx) : (accumulate d r).acc = (r.acc >>> 1) ||| (zextBit 8 d <<< 7) := rfl
@[simp] theorem rxReset_mode (r : Rx) : (rxReset r).mode = .firstFlag := rfl
@[simp] theorem rxReset_bitpos (r : Rx) : (rxReset r).bitpos = 0 := rfl
@[simp] theorem rxReset_ones (r : Rx) : (rxReset r).ones = 0 := rfl
@[simp] theorem rxReset_nrzi (r : Rx) : (rxReset r).nrzi = true := rfl
@[simp] theorem rxReset_idx (r : Rx) : (rxReset r).idx = 0 := rfl
@[simp] theorem rxReset_scr (r : Rx) : (rxReset r).scr = r.scr := rfl
@[simp] theorem rxReset_base (r : Rx) : (rxReset r).base = r.base := rfl
@[simp] theorem rxReset_acc (r : Rx) : (rxReset r).acc = 0 := rfl

end Sys2Proof.Machine
end

