-- ==== Sys2Proof/Laws/Engines.lean ====
section
/-!
SUPPORT. What each shared step of the two bit engines can do, said once (spec/42_tx_engine.md, spec/43_rx_engine.md).
-/

namespace Sys2Proof.Machine

/-! ## The transmit engine -/

/-- CheckStuffing with five ones pending. -/
theorem txCheckStuffing_five {t : Tx} (h : t.ones = 5) :
    txCheckStuffing t = ({ emitBit false t with ones := 0 }, true) := by simp [txCheckStuffing, h]

/-- CheckStuffing otherwise. -/
theorem txCheckStuffing_ne {t : Tx} (h : t.ones ≠ 5) : txCheckStuffing t = (t, false) := by
  rw [txCheckStuffing, if_neg h]

/-- Everything FlagStep can do: within a flag byte, at the end of one with more to send, into the data, or off. -/
theorem flagStep_cases (t : Tx) :
    let e := emitBit (Config.flag.getLsbD t.bitpos.toNat) t
    (t.bitpos + 1 ≠ 0 ∧ flagStep t = ({ e with bitpos := t.bitpos + 1 }, true)) ∨
    (t.bitpos + 1 = 0 ∧ t.flagcnt - 1 ≠ 0 ∧ flagStep t = ({ e with bitpos := 0, flagcnt := t.flagcnt - 1 }, true)) ∨
    (t.bitpos + 1 = 0 ∧ t.flagcnt - 1 = 0 ∧ t.mode = .delayFlag ∧
      flagStep t = ({ e with bitpos := 0, flagcnt := 0, mode := .data, idx := 1, ones := 0 }, true)) ∨
    (t.bitpos + 1 = 0 ∧ t.flagcnt - 1 = 0 ∧ t.mode ≠ .delayFlag ∧
      flagStep t = ({ e with bitpos := 0, flagcnt := 0, mode := .off }, false)) := by
  intro e
  by_cases h1 : t.bitpos + 1 = 0
  · by_cases h2 : t.flagcnt - 1 = 0
    · by_cases h3 : t.mode = .delayFlag
      · refine .inr (.inr (.inl ⟨h1, h2, h3, ?_⟩))
        simp only [flagStep, emitBit_bitpos, emitBit_flagcnt, emitBit_mode, h1, h2, h3, if_true, e]
      · refine .inr (.inr (.inr ⟨h1, h2, h3, ?_⟩))
        simp only [flagStep, emitBit_bitpos, emitBit_flagcnt, emitBit_mode, h1, h2, h3, if_true, if_false, e]
    · refine .inr (.inl ⟨h1, h2, ?_⟩)
      simp only [flagStep, emitBit_bitpos, emitBit_flagcnt, h1, h2, if_true, if_false, e]
  · refine .inl ⟨h1, ?_⟩
    simp only [flagStep, emitBit_bitpos, h1, if_false, e]

/-- Everything DataStep can do, when it completes. -/
theorem txDataStep_ok {bus : Bus} {m : Memory} {post : BitVec 16} {t t' : Tx} {b : Bool}
    (h : txDataStep bus m post t = .ok (t', b)) :
    (t.ones = 5 ∧ t' = { emitBit false t with ones := 0 } ∧ b = true) ∨
    (t.ones ≠ 5 ∧ t.len.toNat ≤ t.idx.toNat + 1 ∧ (t', b) = flagStep (enterTail post t)) ∨
    (t.ones ≠ 5 ∧ t.idx.toNat + 1 < t.len.toNat ∧ b = true ∧
      ∃ x, busRead bus .txBit m (t.base.toNat + t.idx.toNat) = .ok x ∧ t' = sendDataBit (x.getLsbD t.bitpos.toNat) t) := by
  unfold txDataStep at h
  by_cases h5 : t.ones = 5
  · simp only [txCheckStuffing_five h5, Except.ok.injEq, Prod.mk.injEq] at h
    exact .inl ⟨h5, h.1.symm, h.2.symm⟩
  · simp only [txCheckStuffing_ne h5] at h
    split at h
    · exact .inr (.inl ⟨h5, ‹_›, by simpa using h.symm⟩)
    · simp only [bind, Except.bind] at h
      split at h
      · cases h
      · rename_i x hx
        simp only [Except.ok.injEq, Prod.mk.injEq] at h
        exact .inr (.inr ⟨h5, by omega, h.2.symm, x, hx, h.1.symm⟩)

/-- DataStep stops only at its one read. -/
theorem txDataStep_error {bus : Bus} {m : Memory} {post : BitVec 16} {t : Tx} {f : Fault}
    (h : txDataStep bus m post t = .error f) :
    t.idx.toNat + 1 < t.len.toNat ∧ busRead bus .txBit m (t.base.toNat + t.idx.toNat) = .error f := by
  unfold txDataStep at h
  by_cases h5 : t.ones = 5
  · simp only [txCheckStuffing_five h5] at h
    cases h
  · simp only [txCheckStuffing_ne h5] at h
    split at h
    · cases h
    · simp only [bind, Except.bind] at h
      split at h
      · rename_i hlt _ e he
        refine ⟨by omega, ?_⟩
        cases h
        exact he
      · cases h

/-! ## The receive engine -/

/-- Everything RxStore can do, when it completes: it resynchronises a full buffer, or stores the one byte. -/
theorem rxStore_ok {v : Byte} {s s' : State} {b : Bool} (h : rxStore v s = .ok (s', b)) :
    (276 ≤ s.rx.idx.toNat ∧ b = false ∧ s' = { raiseError .rxOvf s with rx := rxReset s.rx }) ∨
    (s.rx.idx.toNat < 276 ∧ b = true ∧ s.rx.base.toNat + s.rx.idx.toNat < Config.addressSpace ∧
      s' = { s with mem := s.mem.write (s.rx.base.toNat + s.rx.idx.toNat) v }) := by
  unfold rxStore at h
  split at h
  · rename_i hi
    simp only [Except.ok.injEq, Prod.mk.injEq] at h
    exact .inl ⟨by simpa using hi, h.2.symm, h.1.symm⟩
  · rename_i hi
    simp only [bind, Except.bind] at h
    split at h
    · cases h
    · rename_i m hm
      obtain ⟨ha, rfl⟩ := busWrite_ok hm
      simp only [Except.ok.injEq, Prod.mk.injEq] at h
      exact .inr ⟨by simpa using hi, h.2.symm, ha, h.1.symm⟩

/-- RxStore with room in a buffer below 2^ADDR_W. -/
theorem rxStore_room {v : Byte} {s : State} (hi : s.rx.idx.toNat < 276) (hb : s.rx.base.toNat + 276 ≤ 4294967296) :
    rxStore v s = .ok ({ s with mem := s.mem.write (s.rx.base.toNat + s.rx.idx.toNat) v }, true) := by
  unfold rxStore
  rw [if_neg (by simpa using hi)]
  simp only [bind, Except.bind]
  rw [busWrite_lt (by omega)]

/-- RxStore with a full buffer (spec/43_rx_engine.md R191). -/
theorem rxStore_full {v : Byte} {s : State} (hi : 276 ≤ s.rx.idx.toNat) :
    rxStore v s = .ok ({ raiseError .rxOvf s with rx := rxReset s.rx }, false) := by
  unfold rxStore
  rw [if_pos (by simpa using hi)]

/-- RxStore stops only at its one write. -/
theorem rxStore_error {v : Byte} {s : State} {f : Fault} (h : rxStore v s = .error f) :
    s.rx.idx.toNat < 276 ∧ f = .addressOutOfRange (s.rx.base.toNat + s.rx.idx.toNat) ∧
      Config.addressSpace ≤ s.rx.base.toNat + s.rx.idx.toNat := by
  unfold rxStore at h
  split at h
  · cases h
  · rename_i hi
    simp only [bind, Except.bind, busWrite] at h
    split at h
    · rename_i hm
      split at hm
      · cases hm
      · rename_i ha
        cases hm
        cases h
        exact ⟨by simpa using hi, rfl, by omega⟩
    · cases h

end Sys2Proof.Machine
end

