-- ==== Sys2Proof/Laws/Exec.lean ====
section
/-!
SUPPORT. What each command can do when it goes on to a next state: one inversion lemma a command, for claims to cite
instead of unfolding the meanings; and the step, one lemma an act of the outside world.
-/

namespace Sys2Proof.Machine

@[simp] theorem finish_eq_next {r : Except Fault State} {t : State} : finish r = .next t ↔ r = .ok t := by
  cases r <;> simp [finish]

@[simp] theorem finish_eq_fault {r : Except Fault State} {f : Fault} : finish r = .fault f ↔ r = .error f := by
  cases r <;> simp [finish]

@[simp] theorem finish_ne_refused {r : Except Fault State} {x : Refusal} : finish r ≠ .refused x := by
  cases r <;> simp [finish]

@[simp] theorem onNext_eq_next {f : State → State} {o : Host.Outcome State Fault Refusal} {t : State} :
    onNext f o = .next t ↔ ∃ s, o = .next s ∧ t = f s := by
  cases o <;> simp [onNext, eq_comm]

@[simp] theorem onNext_eq_fault {f : State → State} {o : Host.Outcome State Fault Refusal} {e : Fault} :
    onNext f o = .fault e ↔ o = .fault e := by
  cases o <;> simp [onNext]

@[simp] theorem onNext_eq_refused {f : State → State} {o : Host.Outcome State Fault Refusal} {r : Refusal} :
    onNext f o = .refused r ↔ o = .refused r := by
  cases o <;> simp [onNext]

/-! ## The argument checks as inequalities -/

theorem crcArgsOk_iff {s : State} : crcArgsOk s = true ↔
    3 ≤ s.arg1.toNat ∧ s.arg1.toNat ≤ 276 ∧ s.arg0.toNat + s.arg1.toNat ≤ 4294967296 := by
  simp [crcArgsOk, rangeFits, and_assoc]

theorem uiArgsOk_iff {s : State} : uiArgsOk s = true ↔
    s.arg0.toNat + (min s.arg2.toNat 256 + 20) ≤ 4294967296 ∧ s.arg1.toNat + min s.arg2.toNat 256 ≤ 4294967296 := by
  simp only [uiArgsOk, rangeFits, Bool.and_eq_true, decide_eq_true_eq]
  exact Iff.rfl

theorem txInitArgsOk_iff {s : State} : txInitArgsOk s = true ↔
    2 ≤ s.arg1.toNat ∧ s.arg1.toNat ≤ 276 ∧ s.arg0.toNat + s.arg1.toNat ≤ 4294967296 := by
  simp [txInitArgsOk, rangeFits, and_assoc]

theorem rxInitArgsOk_iff {s : State} : rxInitArgsOk s = true ↔ s.arg0.toNat + 276 ≤ 4294967296 := by
  simp [rxInitArgsOk, rangeFits]

/-! ## One inversion lemma a command -/

theorem exec_crcCompute_next {s t : State} (h : exec .crcCompute s = .next t) :
    (crcArgsOk s = false ∧ t = raiseError .argErr s) ∨
    (crcArgsOk s = true ∧ ∃ crc, frameCrc s.bus s.mem s.arg0.toNat s.arg1.toNat = .ok crc ∧
      t = setResCore (crc.setWidth 32) s) := by
  simp only [exec, execCrcCompute] at h
  split at h
  · rename_i ha
    simp only [finish_eq_next, bind, Except.bind] at h
    split at h
    · cases h
    · rename_i crc hc
      exact .inr ⟨ha, crc, hc, (Except.ok.inj h).symm⟩
  · rename_i ha
    exact .inl ⟨by simpa using ha, by simpa using h.symm⟩

theorem exec_crcPut_next {s t : State} (h : exec .crcPut s = .next t) :
    (crcArgsOk s = false ∧ t = raiseError .argErr s) ∨
    (crcArgsOk s = true ∧ ∃ m crc, crcPut s.bus s.mem s.arg0.toNat s.arg1.toNat = .ok (m, crc) ∧
      t = setResCore (crc.setWidth 32) { s with mem := m }) := by
  simp only [exec, execCrcPut] at h
  split at h
  · rename_i ha
    simp only [finish_eq_next, bind, Except.bind] at h
    split at h
    · cases h
    · rename_i p hp
      exact .inr ⟨ha, p.1, p.2, hp, (Except.ok.inj h).symm⟩
  · rename_i ha
    exact .inl ⟨by simpa using ha, by simpa using h.symm⟩

theorem exec_uiPrepare_next {s t : State} (h : exec .uiPrepare s = .next t) :
    (uiArgsOk s = false ∧ t = raiseError .argErr s) ∨
    (uiArgsOk s = true ∧ ∃ m, assembleFrame s.bus s.mem s.arg0.toNat s.arg1.toNat (infoLength s) = .ok m ∧
      t = setResCore (BitVec.ofNat 32 (frameLength s)) { s with mem := m }) := by
  simp only [exec, execUiPrepare] at h
  split at h
  · rename_i ha
    simp only [finish_eq_next, bind, Except.bind] at h
    split at h
    · cases h
    · rename_i m hm
      exact .inr ⟨ha, m, hm, (Except.ok.inj h).symm⟩
  · rename_i ha
    exact .inl ⟨by simpa using ha, by simpa using h.symm⟩

theorem exec_txInit_next {s t : State} (h : exec .txInit s = .next t) :
    (txInitArgsOk s = false ∧ t = raiseError .argErr s) ∨
    (txInitArgsOk s = true ∧ t = { s with tx := txStart s.arg0 s.arg1 s.cfgPre s.tx }) := by
  simp only [exec, execTxInit] at h
  split at h
  · exact .inr ⟨‹_›, by simpa using h.symm⟩
  · rename_i ha
    exact .inl ⟨by simpa using ha, by simpa using h.symm⟩

theorem exec_txBit {b : Bool} {s : State} :
    exec (.txBit b) s = .next (setResTx (emitBit b s.tx).line { s with tx := emitBit b s.tx }) := rfl

theorem exec_txCheckStuffing {s : State} :
    exec .txCheckStuffing s =
      .next (setResTx (txCheckStuffing s.tx).2 { s with tx := (txCheckStuffing s.tx).1 }) := rfl

theorem exec_txNextBit_next {s t : State} (h : exec .txNextBit s = .next t) :
    ∃ tx more, txNextBit s.bus s.mem s.cfgPost s.tx = .ok (tx, more) ∧ t = setResTx more { s with tx := tx } := by
  simp only [exec, execTxNextBit, finish_eq_next, bind, Except.bind] at h
  split at h
  · cases h
  · rename_i p hp
    exact ⟨p.1, p.2, hp, (Except.ok.inj h).symm⟩

theorem exec_txNextBit_eq {s : State} {p : Tx × Bool} (h : txNextBit s.bus s.mem s.cfgPost s.tx = .ok p) :
    exec .txNextBit s = .next (setResTx p.2 { s with tx := p.1 }) := by
  simp only [exec, execTxNextBit, finish_eq_next, bind, Except.bind, h]

theorem exec_rxInit_next {s t : State} (h : exec .rxInit s = .next t) :
    (rxInitArgsOk s = false ∧ t = raiseError .argErr s) ∨
    (rxInitArgsOk s = true ∧ t = { s with rx := { rxReset s.rx with base := s.arg0 } }) := by
  simp only [exec, execRxInit] at h
  split at h
  · exact .inr ⟨‹_›, by simpa using h.symm⟩
  · rename_i ha
    exact .inl ⟨by simpa using ha, by simpa using h.symm⟩

theorem exec_rxBit {c : Bool} {s : State} :
    exec (.rxBit c) s = .next (setResRx (decodedBit c s.rx) { s with rx := decodeBit c s.rx }) := rfl

theorem exec_rxCheckStuffing {c : Bool} {s : State} :
    exec (.rxCheckStuffing c) s = .next (setResRx (checkUnstuff c s.rx).2 { s with rx := (checkUnstuff c s.rx).1 }) := rfl

theorem exec_rxNextBit_next {c : Bool} {s t : State} (h : exec (.rxNextBit c) s = .next t) :
    ∃ u receiving, rxNextBit c s = .ok (u, receiving) ∧ t = setResRx receiving u := by
  simp only [exec, execRxNextBit, finish_eq_next, bind, Except.bind] at h
  split at h
  · cases h
  · rename_i p hp
    exact ⟨p.1, p.2, hp, (Except.ok.inj h).symm⟩

theorem exec_rxNextBit_eq {c : Bool} {s : State} {p : State × Bool} (h : rxNextBit c s = .ok p) :
    exec (.rxNextBit c) s = .next (setResRx p.2 p.1) := by
  simp only [exec, execRxNextBit, finish_eq_next, bind, Except.bind, h]

/-- No command is refused. -/
theorem exec_ne_refused (i : Instr) (s : State) (r : Refusal) : exec i s ≠ .refused r := by
  cases i
  all_goals simp only [exec, execCrcCompute, execCrcPut, execUiPrepare, execTxInit, execTxBit, execTxCheckStuffing,
    execTxNextBit, execRxInit, execRxBit, execRxCheckStuffing, execRxNextBit]
  all_goals first
    | exact finish_ne_refused
    | exact fun h => by cases h
    | (split <;> first | exact finish_ne_refused | exact fun h => by cases h)

/-! ## The step -/

theorem step_nil {s : State} (h : s.hostIn = []) : step s = .next s := by simp [step, serveNext, h]

theorem step_cons {s : State} {e : HostEvent} {rest : List HostEvent} (h : s.hostIn = e :: rest) :
    step s = serve e { s with hostIn := rest } := by simp [step, serveNext, h]

/-- A command word at the head of the queue is the one the next step issues. -/
theorem step_withFetchWord (s : State) (nbits w : Nat) :
    step (s.withFetchWord nbits w) = onNext endCommand (issue (BitVec.ofNat 32 (w % 2 ^ nbits)) s) := rfl

end Sys2Proof.Machine
end

