-- ==== Sys2Proof/Laws/MemoryKept.lean ====
section
/-!
SUPPORT. Every operation that changes the buffer memory keeps its canonical form.
-/

namespace Sys2Proof.Machine

theorem crcPut_wf {bus : Bus} {m m' : Memory} {a len : Nat} {crc : BitVec 16} (hm : m.wf = true)
    (h : crcPut bus m a len = .ok (m', crc)) : m'.wf = true := by
  obtain ⟨-, ha, hb, rfl⟩ := crcPut_ok h
  exact Memory.wf_write hb (Memory.wf_write ha hm)

theorem writeEnvelope_wf {m m' : Memory} {d len : Nat} (hm : m.wf = true) (h : writeEnvelope m d len = .ok m') :
    m'.wf = true := by
  simp only [writeEnvelope, bind, Except.bind] at h
  split at h
  · cases h
  · rename_i m1 h1
    obtain ⟨a1, rfl⟩ := busWrite_ok h1
    split at h
    · cases h
    · rename_i m2 h2
      obtain ⟨a2, rfl⟩ := busWrite_ok h2
      split at h
      · cases h
      · rename_i m3 h3
        have w3 := (writeSeq_ok (Memory.wf_write a2 (Memory.wf_write a1 hm)) h3).1
        split at h
        · cases h
        · rename_i m4 h4
          obtain ⟨a4, rfl⟩ := busWrite_ok h4
          obtain ⟨a5, rfl⟩ := busWrite_ok h
          exact Memory.wf_write a5 (Memory.wf_write a4 w3)

theorem assembleFrame_wf {bus : Bus} {m m' : Memory} {d src n : Nat} (hm : m.wf = true)
    (h : assembleFrame bus m d src n = .ok m') : m'.wf = true := by
  simp only [assembleFrame, bind, Except.bind] at h
  split at h
  · cases h
  · rename_i m1 h1
    have w1 := writeEnvelope_wf hm h1
    split at h
    · cases h
    · rename_i m2 h2
      have w2 := (copyLoop_ok w1 h2).1
      split at h
      · cases h
      · rename_i p h3
        cases h
        exact crcPut_wf (crc := p.2) w2 h3

theorem rxStore_wf {v : Byte} {s s' : State} {b : Bool} (hm : s.mem.wf = true) (h : rxStore v s = .ok (s', b)) :
    s'.mem.wf = true := by
  rcases rxStore_ok h with ⟨-, -, rfl⟩ | ⟨-, -, ha, rfl⟩
  · exact hm
  · exact Memory.wf_write ha hm

theorem rxNextBit_wf {c : Bool} {s s' : State} {b : Bool} (hm : s.mem.wf = true) (h : rxNextBit c s = .ok (s', b)) :
    s'.mem.wf = true := by
  unfold rxNextBit at h
  split at h
  · cases h
    exact hm
  · simp only [firstFlagStep, bind, Except.bind] at h
    split at h
    · split at h
      · cases h
      · rename_i p hp
        cases h
        exact rxStore_wf (s' := p.1) (b := p.2) (by exact hm) hp
    · cases h
      exact hm
  · simp only [flagsStep, bind, Except.bind] at h
    split at h
    · split at h
      · cases h
      · rename_i p hp
        cases h
        exact rxStore_wf (s' := p.1) (b := p.2) (by exact hm) hp
    · cases h
      exact hm
  · simp only [rxDataStep] at h
    split at h
    · simp only [rxCheckedStep, bind, Except.bind] at h
      split at h
      · cases h
        exact hm
      · split at h
        · cases h
        · rename_i p hp
          have hw := rxStore_wf (s' := p.1) (b := p.2) (by exact hm) hp
          split at h <;> cases h <;> exact hw
    · simp only [rxPlainStep, bind, Except.bind] at h
      split at h
      · split at h
        · cases h
        · rename_i p hp
          have hw := rxStore_wf (s' := p.1) (b := p.2) (by exact hm) hp
          split at h <;> cases h <;> exact hw
      · cases h
        exact hm

/-- A memory cut short by reset (spec/70_reset_and_hazards.md R284) keeps the canonical form. -/
theorem cutMemory_risingFrom {tick : Nat} {old : Memory} : ∀ {lo : Nat} {new : Memory},
    Memory.risingFrom lo new = true → Memory.risingFrom lo (cutMemory tick old new) = true
  | _, [], _ => rfl
  | lo, (a, v) :: rest, h => by
    simp only [Memory.risingFrom, Bool.and_eq_true, decide_eq_true_eq] at h
    have ih := cutMemory_risingFrom (tick := tick) (old := old) h.2
    have keep : ∀ w : Byte, Memory.risingFrom lo ((a, w) :: cutMemory tick old rest) = true := fun w => by
      simp only [Memory.risingFrom, Bool.and_eq_true, decide_eq_true_eq]
      exact ⟨h.1, ih⟩
    have drop : Memory.risingFrom lo (cutMemory tick old rest) = true := Memory.risingFrom_mono (by omega) ih
    simp only [cutMemory, List.filterMap_cons]
    split
    · exact drop
    · rename_i cell hcell
      have : cell.1 = a := by
        split at hcell
        · cases hcell; rfl
        · split at hcell
          · cases hcell; rfl
          · simp only [Option.map_eq_some_iff] at hcell
            obtain ⟨u, -, rfl⟩ := hcell
            rfl
      obtain ⟨b, w⟩ := cell
      obtain rfl : b = a := this
      exact keep w

theorem cutMemory_wf {tick : Nat} {old new : Memory} (h : new.wf = true) : (cutMemory tick old new).wf = true :=
  cutMemory_risingFrom h

/-- Every command keeps the memory's canonical form. -/
theorem exec_wf {i : Instr} {s t : State} (hm : s.mem.wf = true) (h : exec i s = .next t) : t.mem.wf = true := by
  cases i with
  | crcCompute =>
    rcases exec_crcCompute_next h with ⟨-, rfl⟩ | ⟨-, _, -, rfl⟩
    · simpa using hm
    · simpa using hm
  | crcPut =>
    rcases exec_crcPut_next h with ⟨-, rfl⟩ | ⟨-, m, crc, hp, rfl⟩
    · simpa using hm
    · simpa using crcPut_wf hm hp
  | uiPrepare =>
    rcases exec_uiPrepare_next h with ⟨-, rfl⟩ | ⟨-, m, hp, rfl⟩
    · simpa using hm
    · simpa using assembleFrame_wf hm hp
  | txInit =>
    rcases exec_txInit_next h with ⟨-, rfl⟩ | ⟨-, rfl⟩
    · simpa using hm
    · exact hm
  | txBit b => cases h; exact hm
  | txCheckStuffing => cases h; exact hm
  | txNextBit =>
    obtain ⟨_, _, -, rfl⟩ := exec_txNextBit_next h
    exact hm
  | rxInit =>
    rcases exec_rxInit_next h with ⟨-, rfl⟩ | ⟨-, rfl⟩
    · simpa using hm
    · exact hm
  | rxBit c => cases h; exact hm
  | rxCheckStuffing c => cases h; exact hm
  | rxNextBit c =>
    obtain ⟨u, b, hu, rfl⟩ := exec_rxNextBit_next h
    simpa using rxNextBit_wf hm hu

end Sys2Proof.Machine
end

