-- ==== Sys2Proof/Laws/PerInstr.lean ====
section
/-!
SUPPORT. Statements made for every command, one lemma per constructor of `Instr`.
-/

/-- The family Encoding: a command's word is well-formed, decodes to the command, and is the word of exactly the table rows
that bear its mnemonic (spec/30_encoding.md R82, spec/opcode_table.json). -/
def Sys2Proof.Laws.Encoding.Statement (i : Sys2Proof.Instr) : Prop :=
  Sys2Proof.commandWordWf (Sys2Proof.encode i) = true ∧ Sys2Proof.decode (Sys2Proof.encode i) = .ok i ∧
    ((Sys2Proof.opcodeTable.filter fun r => r.holds (Sys2Proof.encode i)).map Sys2Proof.OpcodeRow.mnemonic) = [i.mnemonic]

namespace Sys2Proof.Laws.Encoding

theorem crcCompute : Statement .crcCompute := ⟨by decide, by decide, by decide⟩

theorem crcPut : Statement .crcPut := ⟨by decide, by decide, by decide⟩

theorem uiPrepare : Statement .uiPrepare := ⟨by decide, by decide, by decide⟩

theorem txInit : Statement .txInit := ⟨by decide, by decide, by decide⟩

theorem txBit (b : Bool) : Statement (.txBit b) := by cases b <;> exact ⟨by decide, by decide, by decide⟩

theorem txCheckStuffing : Statement .txCheckStuffing := ⟨by decide, by decide, by decide⟩

theorem txNextBit : Statement .txNextBit := ⟨by decide, by decide, by decide⟩

theorem rxInit : Statement .rxInit := ⟨by decide, by decide, by decide⟩

theorem rxBit (c : Bool) : Statement (.rxBit c) := by cases c <;> exact ⟨by decide, by decide, by decide⟩

theorem rxCheckStuffing (c : Bool) : Statement (.rxCheckStuffing c) := by
  cases c <;> exact ⟨by decide, by decide, by decide⟩

theorem rxNextBit (c : Bool) : Statement (.rxNextBit c) := by cases c <;> exact ⟨by decide, by decide, by decide⟩

end Sys2Proof.Laws.Encoding
end

