-- ==== Sys2Proof/Tests/Slice0.lean ====
section
/-!
SUPPORT. The model's own tests. Expected values come from spec/95_test_vectors.md (V and P numbers) or from the rules
named, never from a run of the model. Each test is one step or one small computation. Then the witnesses: for each
statement with hypotheses, a concrete state and operands that meet them all.
-/

namespace Sys2Proof.Tests

open Sys2Proof Sys2Proof.Machine

/-! ## Well-formed words: an ill-formed word for each check (spec/95_test_vectors.md V3) -/

theorem test_wf_refuses_rsv0 : reservedBitsClear 0x00000010 = false ∧ commandWordWf 0x00000010 = false := by decide

theorem test_wf_refuses_rsv1 : reservedBitsClear 0x80000007 = false ∧ commandWordWf 0x80000007 = false := by decide

theorem test_wf_refuses_reserved_opcodes :
    opcodeDefined 0x00000000 = false ∧ opcodeDefined 0x0000000C = false ∧ commandWordWf 0x0000000F = false := by decide

theorem test_wf_refuses_stray_operand : operandAllowed 0x00000101 = false ∧ commandWordWf 0x00000106 = false := by decide

theorem test_wf_accepts_legal_words : commandWordWf 0x00000001 = true ∧ commandWordWf 0x0000010B = true := by decide

/-! ## Decoding: every command's word, bit by bit from spec/30_encoding.md R81 and R82 -/

theorem test_decode_crcCompute : decode 0b00000000000000000000000000000001 = .ok .crcCompute := by decide

theorem test_decode_crcPut : decode 0b00000000000000000000000000000010 = .ok .crcPut := by decide

theorem test_decode_uiPrepare : decode 0b00000000000000000000000000000011 = .ok .uiPrepare := by decide

theorem test_decode_txInit : decode 0b00000000000000000000000000000100 = .ok .txInit := by decide

theorem test_decode_txBit :
    decode 0b00000000000000000000000000000101 = .ok (.txBit false) ∧
    decode 0b00000000000000000000000100000101 = .ok (.txBit true) := by decide

theorem test_decode_txCheckStuffing : decode 0b00000000000000000000000000000110 = .ok .txCheckStuffing := by decide

theorem test_decode_txNextBit : decode 0b00000000000000000000000000000111 = .ok .txNextBit := by decide

theorem test_decode_rxInit : decode 0b00000000000000000000000000001000 = .ok .rxInit := by decide

theorem test_decode_rxBit :
    decode 0b00000000000000000000000000001001 = .ok (.rxBit false) ∧
    decode 0b00000000000000000000000100001001 = .ok (.rxBit true) := by decide

theorem test_decode_rxCheckStuffing :
    decode 0b00000000000000000000000000001010 = .ok (.rxCheckStuffing false) ∧
    decode 0b00000000000000000000000100001010 = .ok (.rxCheckStuffing true) := by decide

theorem test_decode_rxNextBit :
    decode 0b00000000000000000000000000001011 = .ok (.rxNextBit false) ∧
    decode 0b00000000000000000000000100001011 = .ok (.rxNextBit true) := by decide

/-- V3, by the reason R86 gives first. -/
theorem test_decode_rejects :
    decode 0x00000000 = .error .reservedOpcode ∧ decode 0x0000000C = .error .reservedOpcode ∧
    decode 0x00000010 = .error .reservedBits ∧ decode 0x00000201 = .error .reservedBits ∧
    decode 0x00000101 = .error .strayOperand ∧ decode 0x80000007 = .error .reservedBits := by decide

theorem test_decodeTableWord :
    decodeTableWord 32 0x0000010B = some (.rxNextBit true) ∧ decodeTableWord 32 0x0000000C = none := by decide

/-! ## Small states -/

/-- Memory holding bytes at rising addresses from `a`. -/
def memAt (a : Nat) : List Byte → Memory
  | [] => []
  | x :: xs => (a, x) :: memAt (a + 1) xs

/-- Reset with a buffer at `a` and ARG0, ARG1. -/
def bufferState (a len : Word) (bytes : List Byte) : State :=
  { State.reset with arg0 := a, arg1 := len, mem := memAt a.toNat bytes }

/-- A transmit engine in TX_DATA_MODE at byte 1 of a frame at 0x100. -/
def txData (ones : BitVec 3) : Tx :=
  { Tx.reset with mode := .data, idx := 1, len := 20, base := 0x100, ones := ones }

/-- A receive engine in TX_DATA_MODE's mirror, at index `idx` of a buffer at 0x3000. -/
def rxData (ones : BitVec 3) (bitpos : BitVec 3) (idx : BitVec 9) : Rx :=
  { Rx.reset with mode := .data, ones := ones, bitpos := bitpos, idx := idx, base := 0x3000 }

/-- A field of the state an outcome goes on in. -/
def after {α : Type} (f : State → α) (o : Host.Outcome State Fault Refusal) : Option α := (nextState o).map f

/-! ## One step a command -/

/-- V4, V5: the CRC of no byte and of one byte 00. -/
theorem test_crcCompute_short :
    after State.resCore (exec .crcCompute (bufferState 0x100 4 [])) = some 0 ∧
    after State.resCore (exec .crcCompute (bufferState 0x100 5 [0x7E, 0x00])) = some 0x0000F078 := by decide

/-- V13: length 2 is ARG_ERR. -/
theorem test_crcCompute_length_two :
    after (fun t => (t.status.argErr, t.resCore)) (exec .crcCompute (bufferState 0x100 2 [])) = some (true, 0) := by decide

/-- V7: after CRC_PUT of the one byte 41 the buffer is 7E 41 F5 A3 7E. -/
theorem test_crcPut_one_byte :
    after (fun t => (t.resCore, t.mem)) (exec .crcPut (bufferState 0x100 5 [0x7E, 0x41, 0, 0, 0x7E])) =
      some (0x0000A3F5, memAt 0x100 [0x7E, 0x41, 0xF5, 0xA3, 0x7E]) := by decide

/-- V17: length 3 overwrites the opening flag. -/
theorem test_crcPut_length_three :
    after State.mem (exec .crcPut (bufferState 0x100 3 [0x7E, 0xAA, 0x7E])) =
      some (memAt 0x100 [0x00, 0x00, 0x7E]) := by decide

/-- V28: a frame that ends one byte past 2^32 is ARG_ERR. -/
theorem test_uiPrepare_out_of_range :
    after (fun t => (t.status.argErr, t.mem, t.resCore)) (exec .uiPrepare (bufferState 0xFFFFFFED 0 [])) =
      some (true, [], 0) := by decide

/-- V21, V27: the 20-byte frame's length, flags, control and PID, at the top of memory. -/
theorem test_uiPrepare_minimal :
    after (fun t => (t.resCore, t.mem.read 0xFFFFFFEC, t.mem.read 0xFFFFFFFB, t.mem.read 0xFFFFFFFC, t.mem.read 0xFFFFFFFF))
      (exec .uiPrepare (bufferState 0xFFFFFFEC 0 [])) = some (20, some 0x7E, some 0x03, some 0xF0, some 0x7E) := by decide

/-- V35. -/
theorem test_txInit :
    after (fun t => (txStatWord t.tx, t.tx.flagcnt, t.tx.len)) (exec .txInit (bufferState 0x1000 20 [])) =
      some (0x00000101, 38, 20) := by decide

/-- V38, V41. -/
theorem test_txInit_out_of_range :
    after (fun t => (t.status.argErr, txStatWord t.tx)) (exec .txInit (bufferState 0x1000 1 [])) =
      some (true, 0x00000100) ∧
    after (fun t => t.status.argErr) (exec .txInit (bufferState 0xFFFFFFFF 2 [])) = some true := by decide

/-- V33: both taps are 1. -/
theorem test_txBit_taps :
    after (fun t => (t.resTx, t.tx.nrzi, t.tx.scr))
      (exec (.txBit true) { State.reset with tx := { Tx.reset with scr := 0x10800 } }) =
      some (true, true, 0x01001) := by decide

/-- V34: bit 16 is lost. -/
theorem test_txBit_toggle :
    after (fun t => (t.tx.line, t.tx.nrzi, t.tx.scr))
      (exec (.txBit false) { State.reset with tx := { Tx.reset with scr := 0x1FFFF } }) =
      some (false, false, 0x1FFFE) := by decide

/-- V52: the stuffed zero. -/
theorem test_txCheckStuffing_sends :
    after (fun t => (t.resTx, t.tx.ones, t.tx.scr))
      (exec .txCheckStuffing { State.reset with tx := { txData 5 with scr := 0x175E4, nrzi := true } }) =
      some (true, 0, 0x0EBC9) := by decide

/-- V43. -/
theorem test_txCheckStuffing_idle :
    after (fun t => (t.resTx, txStatWord t.tx)) (exec .txCheckStuffing State.reset) = some (false, 0x00000100) := by decide

/-- V20, call 449 to call 450: the end check, CFG_POST read, the first postamble bit. -/
theorem test_txNextBit_enters_tail :
    after (fun t => (t.resTx, txStatWord t.tx, t.tx.flagcnt, t.tx.scr))
      (exec .txNextBit { State.reset with
        tx := { txData 1 with idx := 19, nrzi := false, line := false, scr := 0x0B606 } }) =
      some (true, 0x00130327, 13, 0x16C0D) := by decide

/-- V20, call 304 to call 305: bit 0 of byte 1 (86). -/
theorem test_txNextBit_data_bit :
    after (fun t => (t.resTx, txStatWord t.tx, t.tx.scr))
      (exec .txNextBit { State.reset with
        mem := [(0x101, 0x86)], tx := { txData 0 with nrzi := true, line := true, scr := 0x07FDB } }) =
      some (true, 0x00010206, 0x0FFB7) := by decide

/-- V67, V69. -/
theorem test_rxInit :
    after (fun t => (rxStatWord t.rx, t.rx.base)) (exec .rxInit (bufferState 0x3000 0 [])) =
      some (0x00000101, 0x3000) ∧
    after (fun t => (t.status.argErr, rxStatWord t.rx)) (exec .rxInit (bufferState 0xFFFFFEED 0 [])) =
      some (true, 0x00000100) := by decide

/-- V62. -/
theorem test_rxBit_tap :
    after (fun t => (t.resRx, t.rx.nrzi, t.rx.scr))
      (exec (.rxBit true) { State.reset with rx := { Rx.reset with scr := 0x00800 } }) =
      some (false, false, 0x01001) := by decide

/-- V64, V65. -/
theorem test_rxCheckStuffing :
    after (fun t => (t.resRx, t.rx.ones, t.rx.nrzi))
      (exec (.rxCheckStuffing false) { State.reset with rx := { Rx.reset with ones := 5 } }) = some (true, 0, false) ∧
    after (fun t => (t.resRx, t.rx.ones, t.rx.nrzi))
      (exec (.rxCheckStuffing true) { State.reset with rx := { Rx.reset with ones := 5 } }) = some (false, 5, true) := by
  decide

/-- V70, bit 6: the flag is recognised and stored. -/
theorem test_rxNextBit_first_flag :
    after (fun t => (t.resRx, rxStatWord t.rx, t.mem))
      (exec (.rxNextBit false) { State.reset with
        rx := { Rx.reset with mode := .firstFlag, acc := 0xFC, scr := 0x0003F, base := 0x3000 } }) =
      some (true, 0x00010002, memAt 0x3000 [0x7E]) := by decide

/-- V71, bit index 455: the sixth one closes the frame. -/
theorem test_rxNextBit_closing_flag :
    after (fun t => (t.resRx, rxStatWord t.rx, t.mem))
      (exec (.rxNextBit false) { State.reset with
        rx := { rxData 5 6 19 with nrzi := true, acc := 0xFA, scr := 0x181B1 } }) =
      some (false, 0x001301B8, [(0x3013, 0x7E)]) := by decide

/-! ## The host port -/

/-- V2, V80: a legal word sets no STATUS bit, an illegal one sets ILL_CMD, as the first step after reset. -/
theorem test_first_step_after_reset :
    after (fun t => (t.status.illCmd, t.status.argErr)) (step (State.reset.withFetchWord 32 0x00000007)) =
      some (false, false) ∧
    after (fun t => (t.status.illCmd, t.status.argErr)) (step (State.reset.withFetchWord 32 0x0000000C)) =
      some (true, false) := by decide

/-- V83, V86, V85. -/
theorem test_register_writes :
    after State.status (step { State.reset with
      status := ⟨true, true, false⟩, hostIn := [wr 0x1C 0xFFFFFFF8] }) = some ⟨true, true, false⟩ ∧
    after State.cfgPre (step { State.reset with hostIn := [wr 0x20 0x00120010] }) = some 0x0010 ∧
    after (fun t => t.tx.scr) (step { State.reset with hostIn := [wr 0x30 0x0001FFFF] }) = some 0 := by decide

/-- V95: registers right after reset. -/
theorem test_register_reads :
    hostReadValue .word 0x20 State.reset = 0x0000012C ∧ hostReadValue .word 0x24 State.reset = 0x00000064 ∧
    hostReadValue .word 0x28 State.reset = 0x00000100 ∧ hostReadValue .word 0x3C State.reset = 0x00000100 ∧
    hostReadValue .word 0x4C State.reset = 0x41583235 ∧ hostReadValue .word 0x50 State.reset = 0 := by decide

/-- R227: an access of another width, at the offset of a register, reads 0 and is ignored. -/
theorem test_other_width_ignored :
    hostReadValue .other 0x4C State.reset = 0 ∧ hostReadValue .halfword 0x4C State.reset = 0 ∧
    after State.arg0 (hostWrite .other 0x04 0xFFFFFFFF State.reset) = some 0 := by decide

/-- R142's list after V41. -/
theorem test_flagCount :
    flagCount 0 = 1 ∧ flagCount 1 = 1 ∧ flagCount 8 = 1 ∧ flagCount 9 = 2 ∧ flagCount 300 = 38 ∧
    flagCount 65535 = 8192 := by decide

/-- R76: a byte nothing has written stops the read. -/
theorem test_unwritten_read : busRead State.reset.bus .crc State.reset.mem 5 = .error (.unwrittenRead 5) := by decide

/-- The empty memory of reset is canonical. -/
theorem test_reset_memory_canonical : Memory.wf State.reset.mem = true := by decide

/-! ## Witnesses: states and operands that meet a statement's hypotheses, clause by clause -/

/-- Readable bytes, checked one index at a time. -/
theorem covered {bytes : List Byte} {f : Nat → Except Fault Byte} (h : ∀ k : Fin bytes.length, f k.val = .ok bytes[k]) :
    ∀ k x, bytes[k]? = some x → f k = .ok x := by
  intro k x hk
  obtain ⟨hlt, rfl⟩ := List.getElem?_eq_some_iff.1 hk
  exact h ⟨k, hlt⟩

/-- An outcome whose next state has a known field is a next state. -/
theorem next_of_after {α : Type} {f : State → α} {o : Host.Outcome State Fault Refusal} {v : α}
    (h : after f o = some v) : ∃ t, o = .next t ∧ f t = v := by
  cases o with
  | next t => exact ⟨t, rfl, by simpa [after, nextState] using h⟩
  | fault e => simp [after, nextState] at h
  | refused r => simp [after, nextState] at h

/-- A word the decoder refuses is no command's word. -/
theorem not_encode {w : Word} {e : DecodeError} (h : decode w = .error e) : ∀ i, w ≠ encode i := by
  intro i hi
  rw [hi, decode_encode] at h
  cases h

theorem witness_IllegalWordOnlySetsIllCmd :
    (∀ i, (0x0000000C : Word) ≠ encode i) ∧
      (State.reset.withFetchWord 32 0x0000000C).hostIn = .regWrite .word 0x00 0x0000000C :: [] :=
  ⟨not_encode (e := .reservedOpcode) (by decide), by decide⟩

/-- One word for each clause of DecodeTestsInRuleOrder, at the edges of the fields. -/
theorem witness_DecodeTestsInRuleOrder :
    (0x200 / 512 ≠ 0 ∧ 0x010 / 16 % 16 ≠ 0) ∧ (0x10C / 512 = 0 ∧ 0x10C / 16 % 16 = 0 ∧ 0x10C % 16 ∈ [0x0, 0xC, 0xD, 0xE, 0xF]) ∧
    (0x101 / 512 = 0 ∧ 0x101 / 16 % 16 = 0 ∧ 0x101 % 16 ∉ [0x0, 0xC, 0xD, 0xE, 0xF] ∧ 0x101 / 256 % 2 = 1 ∧
      0x101 % 16 ∉ [0x5, 0x9, 0xA, 0xB]) ∧
    (0x10B / 512 = 0 ∧ 0x10B / 16 % 16 = 0 ∧ 0x10B % 16 ∉ [0x0, 0xC, 0xD, 0xE, 0xF] ∧ 0x10B % 16 ∈ [0x5, 0x9, 0xA, 0xB]) := by
  decide

theorem witness_StepRunsTheDecodedCommand :
    (State.reset.withFetchWord 32 0x00000007).hostIn = .regWrite .word 0x00 0x00000007 :: [] ∧
      decode 0x00000007 = .ok .txNextBit ∧ ∃ t, exec .txNextBit { State.reset with hostIn := [] } = .next t :=
  ⟨by decide, by decide, _, rfl⟩

theorem witness_StepRunsTheDecodedCommand_fault :
    exec .crcCompute (bufferState 0x100 5 []) = .fault (.unwrittenRead 0x101) := rfl

theorem witness_StepServesTheNextAct :
    (memAt 0x100 [0x7E]).read (0x100 : Word).toNat = some 0x7E ∧ State.reset.mem.read (0x100 : Word).toNat = none ∧
      State.reset.hostIn = [] := by decide

/-- The clause on a command cut by reset has commands to speak of, and R273: the reset event keeps a stored byte. -/
theorem witness_StepServesTheNextAct_reset :
    (∃ t, issue 0x00000007 State.reset = .next t ∧ t.resTx = false) ∧
    after (fun t => (t.mem, t.arg0, t.hostIn)) (step { bufferState 0x100 0 [0x7E] with hostIn := [.reset, .reset] }) =
      some ([(0x100, 0x7E)], 0, [.reset]) :=
  ⟨next_of_after (f := State.resTx) (by decide), by decide⟩

theorem witness_UnsupportedAccessesReadZeroAndAreIgnored :
    AccessWidth.halfword ≠ .word ∧ AccessWidth.other ≠ .word ∧ (0x02 : BitVec 8).toNat % 4 ≠ 0 ∧ 0x50 ≤ (0x50 : BitVec 8).toNat ∧
      0x50 ≤ (0xFF : BitVec 8).toNat := by decide

theorem witness_StoresFromOutsideChangeOneByte :
    Memory.wf State.reset.mem = true ∧ (0xFFFFFFFF : Word).toNat ∉ State.reset.bus.contended := by decide

theorem witness_CommandCutByResetLandsSomeWrites :
    Memory.wf (memAt 0x100 [0x7E, 0xAA, 0x7E]) = true ∧
      (∃ t, exec .crcPut (bufferState 0x100 3 [0x7E, 0xAA, 0x7E]) = .next t ∧ t.resCore = 0) ∧
      ∀ i, (0x80000007 : Word) ≠ encode i :=
  ⟨by decide, next_of_after (f := State.resCore) (by decide), not_encode (e := .reservedBits) (by decide)⟩

/-- Lengths 3, 5 and 276, and a buffer that ends at 2^32. -/
theorem witness_CrcComputeResult :
    (∀ k x, ([] : List Byte)[k]? = some x →
      busRead State.reset.bus .crc State.reset.mem (0x100 + 1 + k) = .ok x) ∧
    (∀ k x, ([0x41] : List Byte)[k]? = some x →
      busRead State.reset.bus .crc (memAt 0x100 [0x7E, 0x41]) (0x100 + 1 + k) = .ok x) ∧
    (∀ k x, (List.replicate 12 (0 : Byte))[k]? = some x →
      busRead State.reset.bus .crc (memAt 0xFFFFFFF0 (List.replicate 16 0)) (0xFFFFFFF0 + 1 + k) = .ok x) ∧
    ([] : List Byte).length = 3 - 4 ∧ ([0x41] : List Byte).length = 5 - 4 ∧ (List.replicate 12 (0 : Byte)).length = 16 - 4 ∧
    (0xFFFFFFF0 : Word).toNat + (16 : Word).toNat ≤ 4294967296 :=
  ⟨covered (by decide), covered (f := fun k => busRead State.reset.bus .crc (memAt 0x100 [0x7E, 0x41]) (0x100 + 1 + k)) (by decide),
    covered (f := fun k => busRead State.reset.bus .crc (memAt 0xFFFFFFF0 (List.replicate 16 0)) (0xFFFFFFF0 + 1 + k)) (by decide),
    by decide, by decide, by decide, by decide⟩

theorem witness_CrcPutResult :
    Memory.wf (memAt 0x100 [0x7E, 0x41]) = true ∧ 3 ≤ (5 : Word).toNat ∧ (5 : Word).toNat ≤ 276 ∧
      (0x100 : Word).toNat + (5 : Word).toNat ≤ 4294967296 ∧
      ∀ k x, ([0x41] : List Byte)[k]? = some x →
        busRead State.reset.bus .crc (memAt 0x100 [0x7E, 0x41]) (0x100 + 1 + k) = .ok x :=
  ⟨by decide, by decide, by decide, by decide,
    covered (f := fun k => busRead State.reset.bus .crc (memAt 0x100 [0x7E, 0x41]) (0x100 + 1 + k)) (by decide)⟩

theorem witness_CrcStopsAtAnUnwrittenByte :
    1 < (6 : Word).toNat - 4 ∧ (∀ j < 1, ∃ x, busRead State.reset.bus .crc (memAt 0x101 [0x41]) (0x100 + 1 + j) = .ok x) ∧
      0x100 + 1 + 1 ∉ State.reset.bus.contended ∧ (memAt 0x101 [0x41]).read (0x100 + 1 + 1) = none :=
  ⟨by decide, fun j hj => ⟨0x41, by obtain rfl : j = 0 := by omega
                                    decide⟩, by decide, by decide⟩

/-- Each bound of R91, one past what is legal. -/
theorem witness_ArgumentErrorsChangeOnlyArgErr :
    (2 : Word).toNat < 3 ∧ 276 < (277 : Word).toNat ∧ 4294967296 < (0xFFFFFFF0 : Word).toNat + (17 : Word).toNat ∧
    4294967296 < (0xFFFFFFED : Word).toNat + min (0 : Word).toNat 256 + 20 ∧
    4294967296 < (0xFFFFFF01 : Word).toNat + min (300 : Word).toNat 256 ∧ (1 : Word).toNat < 2 ∧
    4294967296 < (0xFFFFFEED : Word).toNat + 276 := by decide

theorem witness_CrcDependsOnlyOnCoveredBytes :
    (∀ k, k < 5 - 4 → busRead State.reset.bus .crc (memAt 0x100 [0x7E, 0x41]) (0x100 + 1 + k) =
      busRead State.reset.bus .crc (memAt 0x200 [0x00, 0x41]) (0x200 + 1 + k)) ∧
    (∃ t, exec .crcCompute (bufferState 0x100 5 [0x7E, 0x41]) = .next t ∧ t.resCore = 0x0000A3F5) ∧
    (∃ t, exec .crcCompute (bufferState 0x200 5 [0x00, 0x41]) = .next t ∧ t.resCore = 0x0000A3F5) :=
  ⟨fun k hk => by obtain rfl : k = 0 := by omega
                  decide,
    next_of_after (f := State.resCore) (by decide), next_of_after (f := State.resCore) (by decide)⟩

theorem witness_CrcComputeAfterCrcPutAgrees :
    ∃ t, exec .crcPut (bufferState 0x100 5 [0x7E, 0x41]) = .next t ∧ t.resCore = 0x0000A3F5 :=
  next_of_after (f := State.resCore) (by decide)

/-- No info, one info byte apart from the frame, and one info byte that is the frame's own PID (d + 16). -/
theorem witness_UiPrepareBuildsTheFrame :
    (∃ t, exec .uiPrepare (bufferState 0x1000 0x2000 []) = .next t ∧ t.resCore = 20) ∧
    (∃ t, exec .uiPrepare { bufferState 0x1000 0x2000 [] with arg2 := 1, mem := [(0x2000, 0x48)] } = .next t ∧
      (t.resCore, t.mem.read 0x1011) = (21, some 0x48)) ∧
    (∃ t, exec .uiPrepare { bufferState 0x1000 0x1010 [] with arg2 := 1 } = .next t ∧
      (t.resCore, t.mem.read 0x1011) = (21, some 0xF0)) :=
  ⟨next_of_after (f := State.resCore) (by decide),
    next_of_after (f := fun t => (t.resCore, t.mem.read 0x1011)) (by decide),
    next_of_after (f := fun t => (t.resCore, t.mem.read 0x1011)) (by decide)⟩

/-- A contended info byte, and one further on than the frame, meet the recursion's first and last clause. -/
theorem witness_UiPrepareBuildsTheFrame_contended :
    ∃ t, exec .uiPrepare { bufferState 0x1000 0x2000 [] with arg2 := 1, bus := { contended := [0x2000], tick := 0 } } = .next t ∧
      t.resCore = 21 :=
  next_of_after (f := State.resCore) (by decide)

theorem witness_CrcComputeAfterUiPrepareReturnsTheFcs :
    (0x1000 : Word).toNat + min (0 : Word).toNat 256 + 20 ≤ 4294967296 ∧
      ∃ t, exec .uiPrepare (bufferState 0x1000 0x2000 []) = .next t ∧ t.resCore = 20 :=
  ⟨by decide, next_of_after (f := State.resCore) (by decide)⟩

theorem witness_InfoAndDataReadsStopAtAnUnwrittenByte :
    exec .uiPrepare { bufferState 0x1000 0x2000 [] with arg2 := 1 } = .fault (.unwrittenRead 0x2000) ∧
    exec .uiPrepare { bufferState 0x1000 0x1012 [] with arg2 := 1 } = .fault (.unwrittenRead 0x1012) ∧
    exec .txNextBit { State.reset with tx := txData 0 } = .fault (.unwrittenRead 0x101) := ⟨rfl, rfl, rfl⟩

/-- The shortest and the longest frame, and one that ends at 2^32. -/
theorem witness_TxInitStartsThePreamble :
    txInitArgsOk (bufferState 0xFFFFFFFE 2 []) = true ∧ txInitArgsOk (bufferState 0x1000 276 []) = true := by decide

/-- Within a flag byte, at its end with more to send, at the last one of the preamble and of the postamble. -/
theorem witness_TxNextBitSendsFlags :
    after (fun t => (t.resTx, t.tx.mode, t.tx.bitpos))
      (exec .txNextBit { State.reset with tx := { Tx.reset with mode := .delayFlag, flagcnt := 1, bitpos := 6 } }) =
      some (true, .delayFlag, 7) ∧
    after (fun t => (t.resTx, t.tx.mode, t.tx.flagcnt))
      (exec .txNextBit { State.reset with tx := { Tx.reset with mode := .tail, flagcnt := 2, bitpos := 7 } }) =
      some (true, .tail, 1) ∧
    after (fun t => (t.resTx, t.tx.mode, t.tx.idx))
      (exec .txNextBit { State.reset with tx := { Tx.reset with mode := .delayFlag, flagcnt := 1, bitpos := 7 } }) =
      some (true, .data, 1) ∧
    after (fun t => (t.resTx, t.tx.mode))
      (exec .txNextBit { State.reset with tx := { Tx.reset with mode := .tail, flagcnt := 1, bitpos := 7 } }) =
      some (false, .off) := by decide

/-- A pending stuffed zero, the end of the data, and a data bit that ends its byte. -/
theorem witness_TxNextBitSendsData :
    after (fun t => (t.resTx, t.tx.ones)) (exec .txNextBit { State.reset with tx := txData 5 }) = some (true, 0) ∧
    after (fun t => t.tx.mode) (exec .txNextBit { State.reset with tx := { txData 0 with idx := 19 } }) = some .tail ∧
    after (fun t => (t.tx.idx, t.tx.ones))
      (exec .txNextBit { State.reset with mem := [(0x112, 0x80)], tx := { txData 0 with idx := 18, bitpos := 7 } }) =
      some (19, 1) := by decide

theorem witness_TxCommandsFrame : ∃ t, exec .txNextBit State.reset = .next t ∧ t.resTx = false :=
  next_of_after (f := State.resTx) (by decide)

theorem witness_TxTransitionTable :
    ∃ t, exec .txInit (bufferState 0x1000 20 []) = .next t ∧ t.tx.mode = .delayFlag :=
  next_of_after (f := fun t => t.tx.mode) (by decide)

/-- A frame of one byte 55 at 0x101, and a frame of none. -/
theorem witness_TxFrameOnTheLine :
    (∀ k x, ([0x55] : List Byte)[k]? = some x →
      busRead State.reset.bus .txBit (memAt 0x101 [0x55]) (0x100 + 1 + k) = .ok x) ∧
    ([0x55] : List Byte).length = (3 : Word).toNat - 2 ∧ ([] : List Byte).length = (2 : Word).toNat - 2 :=
  ⟨covered (f := fun k => busRead State.reset.bus .txBit (memAt 0x101 [0x55]) (0x100 + 1 + k)) (by decide), by decide, by decide⟩

theorem witness_RxInitStartsTheHunt : (0xFFFFFEEC : Word).toNat + 276 ≤ 4294967296 := by decide

theorem witness_RxCheckStuffingResult :
    decodedBit false Rx.reset = false ∧ decodedBit true Rx.reset = true := by decide

/-- Hunting, with a window that becomes 0x7E and one that does not. -/
theorem witness_RxNextBitHuntsTheFlag :
    let r := { Rx.reset with mode := .firstFlag, acc := 0xFC }
    RxInv r ∧ r.acc.toNat / 2 + 128 * (decodedBit false r).toNat = 0x7E ∧
      r.acc.toNat / 2 + 128 * (decodedBit true r).toNat ≠ 0x7E := by decide

/-- Skipping flags: a whole flag, a whole other byte, and part of a byte. -/
theorem witness_RxNextBitSkipsFlags :
    let r := { Rx.reset with mode := .flags, idx := 1, acc := 0xFC, bitpos := 7 }
    RxInv r ∧ RxInv { r with bitpos := 6 } ∧ r.acc.toNat / 2 + 128 * (decodedBit false r).toNat = 0x7E ∧
      r.acc.toNat / 2 + 128 * (decodedBit true r).toNat ≠ 0x7E := by decide

/-- A pending check at the last index of the buffer, with each decoded bit. -/
theorem witness_RxNextBitChecksStuffing :
    RxInv (rxData 5 0 275) ∧ decodedBit false (rxData 5 0 275) = false ∧ decodedBit true (rxData 5 0 275) = true := by
  decide

/-- A bit within a byte, and one that completes the byte at the last index of the buffer. -/
theorem witness_RxNextBitAssemblesBytes :
    RxInv (rxData 4 7 275) ∧ (rxData 4 7 275).ones ≠ 5 ∧ RxInv (rxData 0 6 2) ∧ (rxData 4 7 275).idx.toNat < 276 := by
  decide

/-- A full buffer, with a closing flag to store and with a whole byte to store. -/
theorem witness_RxOverrunResynchronises :
    (276 ≤ (rxData 5 0 276).idx.toNat ∧ decodedBit true (rxData 5 0 276) = true) ∧
      (rxData 0 7 276).ones ≠ 5 ∧ (rxData 0 7 276).bitpos = 7 ∧ RxInv (rxData 5 0 276) := by decide

theorem witness_RxCommandsFrame : ∃ t, exec (.rxNextBit true) { State.reset with rx := rxData 5 0 275 } = .next t ∧
    t.mem.read 0x3113 = some 0x7E :=
  next_of_after (f := fun t => t.mem.read 0x3113) (by decide)

/-- A completed frame and an overrun. -/
theorem witness_RxTransitionTable :
    (∃ t, exec (.rxNextBit true) { State.reset with rx := rxData 5 0 275 } = .next t ∧ (t.rx.mode, t.resRx) = (.off, false)) ∧
    (∃ t, exec (.rxNextBit true) { State.reset with rx := rxData 5 0 276 } = .next t ∧
      (t.rx.mode, t.status.rxOvf) = (.firstFlag, true)) :=
  ⟨next_of_after (f := fun t => (t.rx.mode, t.resRx)) (by decide),
    next_of_after (f := fun t => (t.rx.mode, t.status.rxOvf)) (by decide)⟩

/-- Both clauses of RxNextBitReturnsZeroOnlyAtFrameEnd: the closing flag, and a bit after it. -/
theorem witness_RxNextBitReturnsZeroOnlyAtFrameEnd :
    after (fun t => t.resRx) (exec (.rxNextBit true) { State.reset with rx := rxData 5 0 19 }) = some false ∧
    after (fun t => t.resRx) (exec (.rxNextBit true) State.reset) = some true := by decide

/-- The two laws and the lock have steps to speak of: index 18 of 19 bits. -/
theorem witness_ScramblerAndDescramblerLaws : 18 < (List.replicate 19 true).length ∧ 17 ≤ 18 := by decide

/-- A loopback of the two bytes 86 A2 from 0x1000 to 0x3000. -/
theorem witness_LoopbackRoundTrip :
    headerRoundTrips 0x86 0xA2 = true ∧ Memory.wf (memAt 0x1001 [0x86, 0xA2]) = true ∧
      (0x1000 : Word).toNat + 4 ≤ (0x3000 : Word).toNat ∧ (0x3000 : Word).toNat + 276 ≤ 4294967296 ∧
      ∀ k x, ([0x86, 0xA2] : List Byte)[k]? = some x →
        busRead State.reset.bus .txBit (memAt 0x1001 [0x86, 0xA2]) (0x1000 + 1 + k) = .ok x :=
  ⟨by decide, by decide, by decide, by decide,
    covered (f := fun k => busRead State.reset.bus .txBit (memAt 0x1001 [0x86, 0xA2]) (0x1000 + 1 + k)) (by decide)⟩

/-- Reset meets the invariant, and its steps go on: the whole-machine statements have states to speak of. -/
theorem witness_StepKeepsTheInvariant :
    MachineInv (State.reset.withFetchWord 32 0x00000008) ∧
      ∃ t, step (State.reset.withFetchWord 32 0x00000008) = .next t ∧ t.rx.mode = .firstFlag :=
  ⟨by decide, next_of_after (f := fun t => t.rx.mode) (by decide)⟩

theorem witness_StepsStopOnlyAtUnwrittenBytes :
    MachineInv { State.reset with tx := txData 0, hostIn := [cmd .txNextBit] } ∧
      step { State.reset with tx := txData 0, hostIn := [cmd .txNextBit] } = .fault (.unwrittenRead 0x101) :=
  ⟨by decide, rfl⟩

/-- A command that sets a bit, and one that sets none. -/
theorem witness_StatusBitsAreSticky :
    (∃ t, exec .crcCompute State.reset = .next t ∧ t.status.argErr = true) ∧
      (∃ t, exec .txNextBit State.reset = .next t ∧ t.status = State.reset.status) :=
  ⟨next_of_after (f := fun t => t.status.argErr) (by decide), next_of_after (f := State.status) (by decide)⟩

theorem witness_CommandsKeepOperandsAndTheIdleEngine :
    TxInv State.reset.tx ∧ State.reset.tx.mode = .off ∧ ∃ t, exec (.txBit true) State.reset = .next t ∧ t.resTx = true :=
  ⟨by decide, by decide, next_of_after (f := State.resTx) (by decide)⟩

/-- A data bit sent from 0x101 and a byte stored at 0x3002. -/
theorem witness_DirectionsRunIndependently :
    let s := { State.reset with mem := [(0x101, 0x86)], tx := txData 0, rx := rxData 0 7 2 }
    s.tx.base.toNat + s.tx.idx.toNat ≠ s.rx.base.toNat + s.rx.idx.toNat ∧
      ∃ u, exec .txNextBit s = .next u ∧ u.resTx = true :=
  ⟨by decide, next_of_after (f := State.resTx) (by decide)⟩

/-- Both engines are off after reset, where TX_NEXT_BIT and RX_NEXT_BIT have their shortest effect. -/
theorem witness_NextBitWhenOff : State.reset.tx.mode = .off ∧ State.reset.rx.mode = .off := by decide

/-- Both cases of TX_CHECK_STUFFING. -/
theorem witness_TxCheckStuffingResult : (txData 5).ones = 5 ∧ (txData 4).ones ≠ 5 := by decide

theorem witness_ResultsAndStatusAreNotInputs :
    ∃ t, exec .txCheckStuffing { State.reset with tx := txData 5 } = .next t ∧ t.resTx = true :=
  next_of_after (f := State.resTx) (by decide)

/-- The 18th bit and the last of the lock's first clause, the 19th of its second. -/
theorem witness_ReceiverLocksWithoutSharedSeed :
    17 < (List.replicate 18 true).length ∧ 18 < (List.replicate 19 true).length := by decide

/-- A word of one row of the opcode table, and one of none. -/
theorem witness_DecodeAgreesWithOpcodeTable :
    (opcodeTable.any fun row => row.holds 0x0000010B) = true ∧ (opcodeTable.all fun row => !row.holds 0x0000010C) = true := by
  decide

end Sys2Proof.Tests
end

section
/-!
PROOFS. The CRC register is a remainder modulo G(x) (spec/00_scope.md R4, spec/40_crc.md R100, R103). The bit-reflected
register is a polynomial of degree below 16; one bit of R100's loop multiplies it by x, adds the message bit at x^16 and
takes away a multiple of G(x), so it stays the remainder as the message grows by one bit at its end.
-/

namespace Sys2Proof.Machine

section
open Polynomial

theorem bitCoeff_xor : ∀ a b : Bool, bitCoeff (a ^^ b) = bitCoeff a + bitCoeff b := by decide

/-! ### Bits as a polynomial -/

@[simp] theorem bitsPoly_nil : bitsPoly [] = 0 := rfl

@[simp] theorem bitsPoly_concat (bs : List Bool) (b : Bool) : bitsPoly (bs ++ [b]) = bitsPoly bs * X + C (bitCoeff b) := by
  simp [bitsPoly]

theorem bitsPoly_cons (b : Bool) (bs : List Bool) : bitsPoly (b :: bs) = C (bitCoeff b) * X ^ bs.length + bitsPoly bs := by
  induction bs using List.reverseRecOn with
  | nil => simp [bitsPoly]
  | append_singleton bs x ih =>
    rw [← List.cons_append, bitsPoly_concat, bitsPoly_concat, ih, List.length_append, List.length_singleton]
    ring

theorem bitsPoly_map_xor {ι : Type} (f g : ι → Bool) (l : List ι) :
    bitsPoly (l.map fun k => f k ^^ g k) = bitsPoly (l.map f) + bitsPoly (l.map g) := by
  induction l using List.reverseRecOn with
  | nil => simp
  | append_singleton l k ih =>
    simp only [List.map_append, List.map_cons, List.map_nil, bitsPoly_concat, ih, bitCoeff_xor, C_add]
    ring

theorem degree_bitsPoly_lt (bs : List Bool) : (bitsPoly bs).degree < bs.length := by
  induction bs using List.reverseRecOn with
  | nil => simp
  | append_singleton bs b ih =>
    rw [degree_lt_iff_coeff_zero] at ih ⊢
    intro m hm
    rw [List.length_append, List.length_singleton] at hm
    cases m with
    | zero => omega
    | succ k => rw [bitsPoly_concat, coeff_add, coeff_mul_X, coeff_C_succ, ih k (Nat.le_of_succ_le_succ hm), add_zero]

/-! ### The register as a polynomial -/

theorem registerPoly_xor (a b : BitVec 16) : registerPoly (a ^^^ b) = registerPoly a + registerPoly b := by
  simp only [registerPoly, BitVec.getLsbD_xor, bitsPoly_map_xor]

theorem degree_registerPoly_lt (crc : BitVec 16) : (registerPoly crc).degree < 16 := by
  simpa [registerPoly] using degree_bitsPoly_lt ((List.range 16).map fun k => crc.getLsbD k)

/-- A shift right by one takes bit 0, the coefficient of x^15, out of the register and multiplies the rest by x. -/
theorem registerPoly_shiftRight (crc : BitVec 16) :
    registerPoly (crc >>> 1) + C (bitCoeff (crc.getLsbD 0)) * X ^ 16 = registerPoly crc * X := by
  have hcrc : (List.range 16).map (fun k => crc.getLsbD k) =
      crc.getLsbD 0 :: (List.range 15).map fun k => crc.getLsbD (k + 1) := by
    simp [List.range_succ_eq_map]
  have hshift : (List.range 16).map (fun k => (crc >>> 1).getLsbD k) =
      ((List.range 15).map fun k => crc.getLsbD (k + 1)) ++ [false] := by
    simp [List.range_succ, Nat.add_comm]
  rw [registerPoly, registerPoly, hcrc, hshift, bitsPoly_concat, bitsPoly_cons, List.length_map, List.length_range]
  simp only [bitCoeff, Bool.false_eq_true, if_false, C_0]
  ring

/-- CRC_POLY (R9) holds G(x) without its leading term. -/
theorem registerPoly_crcPoly : registerPoly Config.crcPoly + X ^ 16 = crcGenerator := by
  have hbits : (List.range 16).map (fun k => Config.crcPoly.getLsbD k) =
      [false, false, false, true, false, false, false, false, false, false, true, false, false, false, false, true] := by
    decide
  rw [registerPoly, hbits, crcGenerator]
  simp [bitsPoly, bitCoeff]
  ring

/-- One bit of R100's loop: times x, plus the message bit at x^16, less G(x) when the coefficient of x^16 is then 1. -/
theorem registerPoly_crcBit (crc : BitVec 16) (b : Bool) :
    registerPoly (crcBit crc b) + C (bitCoeff (crc.getLsbD 0 ^^ b)) * crcGenerator =
      registerPoly crc * X + C (bitCoeff b) * X ^ 16 := by
  have hstep : registerPoly crc * X + C (bitCoeff b) * X ^ 16 =
      registerPoly (crc >>> 1) + C (bitCoeff (crc.getLsbD 0 ^^ b)) * X ^ 16 := by
    rw [← registerPoly_shiftRight, bitCoeff_xor, C_add]
    ring
  rw [hstep, crcBit]
  cases crc.getLsbD 0 ^^ b with
  | false => simp [bitCoeff]
  | true =>
    calc registerPoly ((crc >>> 1) ^^^ Config.crcPoly) + C 1 * crcGenerator
      _ = registerPoly (crc >>> 1) + (registerPoly Config.crcPoly + registerPoly Config.crcPoly) + C 1 * X ^ 16 := by
        rw [registerPoly_xor, ← registerPoly_crcPoly, C_1]
        ring
      _ = registerPoly (crc >>> 1) + C 1 * X ^ 16 := by rw [CharTwo.add_self_eq_zero, add_zero]

/-! ### The register as a remainder -/

theorem monic_crcGenerator : crcGenerator.Monic := by
  unfold crcGenerator
  monicity!

theorem degree_crcGenerator : crcGenerator.degree = 16 := by
  unfold crcGenerator
  compute_degree!

theorem registerPoly_modByMonic (crc : BitVec 16) : registerPoly crc %ₘ crcGenerator = registerPoly crc := by
  rw [modByMonic_eq_self_iff monic_crcGenerator, degree_crcGenerator]
  exact degree_registerPoly_lt crc

theorem registerPoly_crcBit_eq_modByMonic (crc : BitVec 16) (b : Bool) :
    registerPoly (crcBit crc b) = (registerPoly crc * X + C (bitCoeff b) * X ^ 16) %ₘ crcGenerator := by
  rw [← registerPoly_crcBit, add_modByMonic, registerPoly_modByMonic, mul_comm,
    self_mul_modByMonic monic_crcGenerator, add_zero]

theorem modByMonic_mul_X_add_modByMonic (p q : (ZMod 2)[X]) :
    (p %ₘ crcGenerator * X + q) %ₘ crcGenerator = (p * X + q) %ₘ crcGenerator := by
  apply modByMonic_eq_of_dvd_sub monic_crcGenerator
  rw [add_sub_add_right_eq_sub, ← sub_mul]
  exact (dvd_modByMonic_sub p crcGenerator).mul_right X

theorem registerPoly_foldl_crcBit (start : BitVec 16) (bs : List Bool) :
    registerPoly (bs.foldl crcBit start) = (bitsPoly bs * X ^ 16 + registerPoly start * X ^ bs.length) %ₘ crcGenerator := by
  induction bs using List.reverseRecOn with
  | nil => simp [registerPoly_modByMonic]
  | append_singleton bs b ih =>
    have hmessage : bitsPoly (bs ++ [b]) * X ^ 16 + registerPoly start * X ^ (bs ++ [b]).length =
        (bitsPoly bs * X ^ 16 + registerPoly start * X ^ bs.length) * X + C (bitCoeff b) * X ^ 16 := by
      rw [bitsPoly_concat, List.length_append, List.length_singleton]
      ring
    rw [hmessage, List.foldl_concat, registerPoly_crcBit_eq_modByMonic, ih, modByMonic_mul_X_add_modByMonic]

theorem foldl_crcByte (start : BitVec 16) (bytes : List Byte) :
    bytes.foldl crcByte start = (bytes.flatMap byteBits).foldl crcBit start := by
  rw [List.foldl_flatMap]
  rfl

theorem length_flatMap_byteBits (bytes : List Byte) : (bytes.flatMap byteBits).length = 8 * bytes.length := by
  simp [List.length_flatMap, byteBits, mul_comm]

/-- Settles O24, by induction on the message's bits: each bit appended keeps the register the remainder. -/
theorem crcIsThePolynomialRemainder : Obligations.CrcIsThePolynomialRemainder := by
  intro start bytes
  rw [foldl_crcByte, registerPoly_foldl_crcBit, length_flatMap_byteBits]

end

end Sys2Proof.Machine
end

section
/-!
PROOFS. What each family of commands can change (spec/10_state.md R25, R50): the CORE's three, the transmitter's four and
the receiver's four.
-/

namespace Sys2Proof.Machine

/-! ### The transmitter's step -/

/-- R149's case on the mode. -/
theorem txNextBit_ok {bus : Bus} {m : Memory} {post : BitVec 16} {t x : Tx} {more : Bool}
    (h : txNextBit bus m post t = .ok (x, more)) :
    (t.mode = .off ∧ x = t ∧ more = false) ∨ ((t.mode = .delayFlag ∨ t.mode = .tail) ∧ flagStep t = (x, more)) ∨
      (t.mode = .data ∧ txDataStep bus m post t = .ok (x, more)) := by
  unfold txNextBit at h
  split at h
  case h_1 hmode =>
    cases h
    exact .inl ⟨hmode, rfl, rfl⟩
  case h_2 hmode => exact .inr (.inl ⟨.inl hmode, Except.ok.inj h⟩)
  case h_3 hmode => exact .inr (.inl ⟨.inr hmode, Except.ok.inj h⟩)
  case h_4 hmode => exact .inr (.inr ⟨hmode, h⟩)

/-! ### The receiver's steps, their one store left to RxStore's own lemma -/

/-- Everything FirstFlagStep can do, when it completes. -/
theorem firstFlagStep_ok {c more : Bool} {s u : State} (h : firstFlagStep c s = .ok (u, more)) :
    let r := accumulate (decodedBit c s.rx) (decodeBit c s.rx)
    more = true ∧
    ((r.acc ≠ Config.flag ∧ u = { s with rx := r }) ∨
    (r.acc = Config.flag ∧ ∃ v stored, rxStore Config.flag { s with rx := r } = .ok (v, stored) ∧
      u = { v with rx := { v.rx with idx := 1, bitpos := 0, mode := .flags } })) := by
  simp only [firstFlagStep, bind, Except.bind] at h
  split at h
  · rename_i hflag
    split at h
    · cases h
    · rename_i p hp
      cases h
      exact ⟨rfl, .inr ⟨hflag, p.1, p.2, hp, rfl⟩⟩
  · cases h
    exact ⟨rfl, .inl ⟨‹_›, rfl⟩⟩

/-- Everything FlagsStep can do, when it completes. -/
theorem flagsStep_ok {c more : Bool} {s u : State} (h : flagsStep c s = .ok (u, more)) :
    let r := accumulate (decodedBit c s.rx) (decodeBit c s.rx)
    let r := { r with bitpos := r.bitpos + 1 }
    more = true ∧
    ((¬(r.bitpos = 0 ∧ r.acc ≠ Config.flag) ∧ u = { s with rx := r }) ∨
    (r.bitpos = 0 ∧ r.acc ≠ Config.flag ∧ ∃ v stored, rxStore r.acc { s with rx := r } = .ok (v, stored) ∧
      u = { v with rx := { v.rx with idx := 2, ones := 0, mode := .data } })) := by
  simp only [flagsStep, bind, Except.bind] at h
  split at h
  · rename_i hbyte
    split at h
    · cases h
    · rename_i p hp
      cases h
      exact ⟨rfl, .inr ⟨hbyte.1, hbyte.2, p.1, p.2, hp, rfl⟩⟩
  · cases h
    exact ⟨rfl, .inl ⟨‹_›, rfl⟩⟩

/-- Everything R188 can do with a stuffing check pending, when it completes: drop a stuffed zero, or take the bit as part
of the closing flag, which RxStore finds room for or not. -/
theorem rxCheckedStep_ok {c more : Bool} {s u : State} (h : rxCheckedStep c s = .ok (u, more)) :
    let r := (checkUnstuff c s.rx).1
    ((checkUnstuff c s.rx).2 = true ∧ more = true ∧ u = { s with rx := r }) ∨
    ((checkUnstuff c s.rx).2 = false ∧ more = true ∧ rxStore Config.flag { s with rx := r } = .ok (u, false)) ∨
    ((checkUnstuff c s.rx).2 = false ∧ more = false ∧ ∃ v, rxStore Config.flag { s with rx := r } = .ok (v, true) ∧
      u = { v with rx := { v.rx with mode := .off } }) := by
  simp only [rxCheckedStep, bind, Except.bind] at h
  split at h
  · cases h
    exact .inl ⟨‹_›, rfl, rfl⟩
  · rename_i hbit
    have hbit : (checkUnstuff c s.rx).2 = false := by simpa using hbit
    split at h
    · cases h
    · rename_i p hp
      obtain ⟨v, stored⟩ := p
      cases stored with
      | false =>
        cases h
        exact .inr (.inl ⟨hbit, rfl, hp⟩)
      | true =>
        cases h
        exact .inr (.inr ⟨hbit, rfl, v, hp, rfl⟩)

/-- Everything R188 can do with no stuffing check pending, when it completes: take in a bit within a byte, or one that
completes a byte, which RxStore finds room for or not. -/
theorem rxPlainStep_ok {c more : Bool} {s u : State} (h : rxPlainStep c s = .ok (u, more)) :
    let d := decodedBit c s.rx
    let r := accumulate d (decodeBit c s.rx)
    let r := { r with ones := if d then r.ones + 1 else 0, bitpos := r.bitpos + 1 }
    more = true ∧
    ((r.bitpos ≠ 0 ∧ u = { s with rx := r }) ∨
    (r.bitpos = 0 ∧ rxStore r.acc { s with rx := r } = .ok (u, false)) ∨
    (r.bitpos = 0 ∧ ∃ v, rxStore r.acc { s with rx := r } = .ok (v, true) ∧
      u = { v with rx := { v.rx with idx := v.rx.idx + 1 } })) := by
  simp only [rxPlainStep, bind, Except.bind] at h
  split at h
  · rename_i hbyte
    split at h
    · cases h
    · rename_i p hp
      obtain ⟨v, stored⟩ := p
      cases stored with
      | false =>
        cases h
        exact ⟨rfl, .inr (.inl ⟨hbyte, hp⟩)⟩
      | true =>
        cases h
        exact ⟨rfl, .inr (.inr ⟨hbyte, v, hp, rfl⟩)⟩
  · cases h
    exact ⟨rfl, .inl ⟨‹_›, rfl⟩⟩

/-- R190's case on the mode. -/
theorem rxNextBit_ok {c more : Bool} {s u : State} (h : rxNextBit c s = .ok (u, more)) :
    (s.rx.mode = .off ∧ more = true ∧ u = { s with rx := decodeBit c s.rx }) ∨
    (s.rx.mode = .firstFlag ∧ firstFlagStep c s = .ok (u, more)) ∨
    (s.rx.mode = .flags ∧ flagsStep c s = .ok (u, more)) ∨
    (s.rx.mode = .data ∧ s.rx.ones = 5 ∧ rxCheckedStep c s = .ok (u, more)) ∨
    (s.rx.mode = .data ∧ s.rx.ones ≠ 5 ∧ rxPlainStep c s = .ok (u, more)) := by
  unfold rxNextBit at h
  split at h
  case h_1 hmode =>
    cases h
    exact .inl ⟨hmode, rfl, rfl⟩
  case h_2 hmode => exact .inr (.inl ⟨hmode, h⟩)
  case h_3 hmode => exact .inr (.inr (.inl ⟨hmode, h⟩))
  case h_4 hmode =>
    unfold rxDataStep at h
    split at h
    · exact .inr (.inr (.inr (.inl ⟨hmode, ‹_›, h⟩)))
    · exact .inr (.inr (.inr (.inr ⟨hmode, ‹_›, h⟩)))

/-- Everything RX_NEXT_BIT can do beside changing its own engine (spec/43_rx_engine.md R191): nothing, store the one byte
at RX_BASE + RX_IDX, or set RX_OVF because the buffer is full. -/
inductive RxEffect (s : State) : State → Prop
  | quiet (r : Rx) : RxEffect s { s with rx := r }
  | store (r : Rx) (v : Byte) (room : s.rx.idx.toNat < 276) :
      RxEffect s { s with rx := r, mem := s.mem.write (s.rx.base.toNat + s.rx.idx.toNat) v }
  | overrun (r : Rx) (full : 276 ≤ s.rx.idx.toNat) : RxEffect s { raiseError .rxOvf s with rx := r }

/-- What follows RxStore in the engine does not widen its effect. -/
theorem RxEffect.setRx {s u : State} (h : RxEffect s u) (r : Rx) : RxEffect s { u with rx := r } := by
  cases h with
  | quiet _ => exact .quiet r
  | store _ v room => exact .store r v room
  | overrun _ full => exact .overrun r full

/-- RxStore's effect, seen from before the engine took the bit in: RX_BASE and RX_IDX are still the same. -/
theorem rxStore_effect {s v : State} {r : Rx} {x : Byte} {stored : Bool}
    (h : rxStore x { s with rx := r } = .ok (v, stored)) (hbase : r.base = s.rx.base) (hidx : r.idx = s.rx.idx) :
    RxEffect s v := by
  rcases rxStore_ok h with ⟨hfull, -, rfl⟩ | ⟨hroom, -, -, rfl⟩
  · exact .overrun _ (hidx ▸ hfull)
  · simp only [hbase, hidx] at hroom ⊢
    exact .store r x hroom

theorem checkUnstuff_base (c : Bool) (r : Rx) : (checkUnstuff c r).1.base = r.base := by
  unfold checkUnstuff
  split <;> rfl

theorem checkUnstuff_idx (c : Bool) (r : Rx) : (checkUnstuff c r).1.idx = r.idx := by
  unfold checkUnstuff
  split <;> rfl

theorem rxNextBit_effect {c more : Bool} {s u : State} (h : rxNextBit c s = .ok (u, more)) : RxEffect s u := by
  rcases rxNextBit_ok h with ⟨-, -, rfl⟩ | ⟨-, h⟩ | ⟨-, h⟩ | ⟨-, -, h⟩ | ⟨-, -, h⟩
  · exact .quiet _
  · obtain ⟨-, ⟨-, rfl⟩ | ⟨-, v, stored, hv, rfl⟩⟩ := firstFlagStep_ok h
    · exact .quiet _
    · exact (rxStore_effect hv rfl rfl).setRx _
  · obtain ⟨-, ⟨-, rfl⟩ | ⟨-, -, v, stored, hv, rfl⟩⟩ := flagsStep_ok h
    · exact .quiet _
    · exact (rxStore_effect hv rfl rfl).setRx _
  · have hbase := checkUnstuff_base c s.rx
    have hidx := checkUnstuff_idx c s.rx
    obtain ⟨-, -, rfl⟩ | ⟨-, -, hu⟩ | ⟨-, -, v, hv, rfl⟩ := rxCheckedStep_ok h
    · exact .quiet _
    · exact rxStore_effect hu hbase hidx
    · exact (rxStore_effect hv hbase hidx).setRx _
  · obtain ⟨-, ⟨-, rfl⟩ | ⟨-, hu⟩ | ⟨-, v, hv, rfl⟩⟩ := rxPlainStep_ok h
    · exact .quiet _
    · exact rxStore_effect hu rfl rfl
    · exact (rxStore_effect hv rfl rfl).setRx _

/-! ### The three families -/

theorem command_families (i : Instr) :
    i ∈ [.crcCompute, .crcPut, .uiPrepare] ∨ (∃ b, i ∈ [.txInit, .txBit b, .txCheckStuffing, .txNextBit]) ∨
      ∃ c, i ∈ [.rxInit, .rxBit c, .rxCheckStuffing c, .rxNextBit c] := by
  cases i <;> simp

/-- Everything CRC_COMPUTE, CRC_PUT and UI_PREPARE can change: ARG_ERR alone, or RES_CORE and memory. -/
theorem coreCommand_next {i : Instr} {s t : State} (hi : i ∈ [.crcCompute, .crcPut, .uiPrepare])
    (h : exec i s = .next t) : t = raiseError .argErr s ∨ ∃ v m, t = setResCore v { s with mem := m } := by
  simp only [List.mem_cons, List.not_mem_nil, or_false] at hi
  rcases hi with rfl | rfl | rfl
  · rcases exec_crcCompute_next h with ⟨-, rfl⟩ | ⟨-, crc, -, rfl⟩
    · exact .inl rfl
    · exact .inr ⟨_, s.mem, rfl⟩
  · rcases exec_crcPut_next h with ⟨-, rfl⟩ | ⟨-, m, crc, -, rfl⟩
    · exact .inl rfl
    · exact .inr ⟨_, m, rfl⟩
  · rcases exec_uiPrepare_next h with ⟨-, rfl⟩ | ⟨-, m, -, rfl⟩
    · exact .inl rfl
    · exact .inr ⟨_, m, rfl⟩

/-- Everything the four TX commands can change: TX_INIT changes ARG_ERR or the engine, the others RES_TX and the
engine. -/
theorem txCommand_next {i : Instr} {b : Bool} {s t : State}
    (hi : i ∈ [.txInit, .txBit b, .txCheckStuffing, .txNextBit]) (h : exec i s = .next t) :
    (i = .txInit ∧ t = raiseError .argErr s) ∨ (i = .txInit ∧ ∃ x, t = { s with tx := x }) ∨
      (i ≠ .txInit ∧ ∃ x more, t = setResTx more { s with tx := x }) := by
  simp only [List.mem_cons, List.not_mem_nil, or_false] at hi
  rcases hi with rfl | rfl | rfl | rfl
  · rcases exec_txInit_next h with ⟨-, rfl⟩ | ⟨-, rfl⟩
    · exact .inl ⟨rfl, rfl⟩
    · exact .inr (.inl ⟨rfl, _, rfl⟩)
  · cases h
    exact .inr (.inr ⟨nofun, _, _, rfl⟩)
  · cases h
    exact .inr (.inr ⟨nofun, _, _, rfl⟩)
  · obtain ⟨x, more, -, rfl⟩ := exec_txNextBit_next h
    exact .inr (.inr ⟨nofun, x, more, rfl⟩)

/-- Everything the four RX commands can change: RX_INIT changes ARG_ERR or the engine, RX_BIT and RX_CHECK_STUFFING change
RES_RX and the engine, RX_NEXT_BIT has besides the effect of RxStore. -/
theorem rxCommand_next {i : Instr} {c : Bool} {s t : State}
    (hi : i ∈ [.rxInit, .rxBit c, .rxCheckStuffing c, .rxNextBit c]) (h : exec i s = .next t) :
    (i = .rxInit ∧ t = raiseError .argErr s) ∨ (i = .rxInit ∧ ∃ r, t = { s with rx := r }) ∨
      (i ≠ .rxInit ∧ i ≠ .rxNextBit c ∧ ∃ r more, t = setResRx more { s with rx := r }) ∨
      (i = .rxNextBit c ∧ ∃ u more, RxEffect s u ∧ t = setResRx more u) := by
  simp only [List.mem_cons, List.not_mem_nil, or_false] at hi
  rcases hi with rfl | rfl | rfl | rfl
  · rcases exec_rxInit_next h with ⟨-, rfl⟩ | ⟨-, rfl⟩
    · exact .inl ⟨rfl, rfl⟩
    · exact .inr (.inl ⟨rfl, _, rfl⟩)
  · cases h
    exact .inr (.inr (.inl ⟨nofun, nofun, _, _, rfl⟩))
  · cases h
    exact .inr (.inr (.inl ⟨nofun, nofun, _, _, rfl⟩))
  · obtain ⟨u, more, hu, rfl⟩ := exec_rxNextBit_next h
    exact .inr (.inr (.inr ⟨rfl, u, more, rxNextBit_effect hu, rfl⟩))

/-! ### The frames -/

/-- Settles O35, by what the four TX commands can change. -/
theorem txCommandsFrame : Obligations.TxCommandsFrame := by
  intro s t i b hi h
  rcases txCommand_next hi h with ⟨rfl, rfl⟩ | ⟨rfl, x, rfl⟩ | ⟨hinit, x, more, rfl⟩
  · simp
  · simp
  · simp [hinit]

/-- Settles O48, by what the four RX commands can change; RxStore's byte is read back by the memory's laws. -/
theorem rxCommandsFrame : Obligations.RxCommandsFrame := by
  intro s t i c hi hwf h
  rcases rxCommand_next hi h with ⟨rfl, rfl⟩ | ⟨rfl, r, rfl⟩ | ⟨hinit, hnext, r, more, rfl⟩ | ⟨rfl, u, more, hu, rfl⟩
  · simp
  · simp
  · simp [hinit]
  · cases hu with
    | quiet r => simp
    | store r v room =>
      have hread : ∀ a, a ≠ s.rx.base.toNat + s.rx.idx.toNat ∨ 276 ≤ s.rx.idx.toNat →
          (s.mem.write (s.rx.base.toNat + s.rx.idx.toNat) v).read a = s.mem.read a := by
        rintro a (ha | hfull)
        · exact Memory.read_write_ne hwf ha
        · omega
      simpa using hread
    | overrun r full => simp

end Sys2Proof.Machine
end

section
/-!
PROOFS. The machine invariant (spec/10_state.md R44, R45; spec/20_memory.md R61): each engine's steps keep its half, no
command of one direction touches the other's, and every act of the outside world keeps the whole.
-/

namespace Sys2Proof.Machine

/-! ### What each family leaves to the others -/

theorem RxEffect.keeps_operands {s u : State} (h : RxEffect s u) :
    u.arg0 = s.arg0 ∧ u.arg1 = s.arg1 ∧ u.arg2 = s.arg2 ∧ u.cfgPre = s.cfgPre ∧ u.cfgPost = s.cfgPost := by
  cases h <;> simp

theorem RxEffect.tx_eq {s u : State} (h : RxEffect s u) : u.tx = s.tx := by
  cases h <;> simp

theorem exec_keeps_operands {i : Instr} {s t : State} (h : exec i s = .next t) :
    t.arg0 = s.arg0 ∧ t.arg1 = s.arg1 ∧ t.arg2 = s.arg2 ∧ t.cfgPre = s.cfgPre ∧ t.cfgPost = s.cfgPost := by
  rcases command_families i with hi | ⟨b, hi⟩ | ⟨c, hi⟩
  · rcases coreCommand_next hi h with rfl | ⟨v, m, rfl⟩
    · simp
    · simp
  · rcases txCommand_next hi h with ⟨-, rfl⟩ | ⟨-, x, rfl⟩ | ⟨-, x, more, rfl⟩
    · simp
    · simp
    · simp
  · rcases rxCommand_next hi h with ⟨-, rfl⟩ | ⟨-, r, rfl⟩ | ⟨-, -, r, more, rfl⟩ | ⟨-, u, more, hu, rfl⟩
    · simp
    · simp
    · simp
    · exact hu.keeps_operands

theorem coreCommand_keeps_engines {i : Instr} {s t : State} (hi : i ∈ [.crcCompute, .crcPut, .uiPrepare])
    (h : exec i s = .next t) : t.tx = s.tx ∧ t.rx = s.rx := by
  rcases coreCommand_next hi h with rfl | ⟨v, m, rfl⟩
  · simp
  · simp

theorem txCommand_keeps_rx {i : Instr} {b : Bool} {s t : State}
    (hi : i ∈ [.txInit, .txBit b, .txCheckStuffing, .txNextBit]) (h : exec i s = .next t) : t.rx = s.rx := by
  rcases txCommand_next hi h with ⟨-, rfl⟩ | ⟨-, x, rfl⟩ | ⟨-, x, more, rfl⟩
  · simp
  · rfl
  · rfl

theorem rxCommand_keeps_tx {i : Instr} {c : Bool} {s t : State}
    (hi : i ∈ [.rxInit, .rxBit c, .rxCheckStuffing c, .rxNextBit c]) (h : exec i s = .next t) : t.tx = s.tx := by
  rcases rxCommand_next hi h with ⟨-, rfl⟩ | ⟨-, r, rfl⟩ | ⟨-, -, r, more, rfl⟩ | ⟨-, u, more, hu, rfl⟩
  · simp
  · rfl
  · rfl
  · exact hu.tx_eq

/-! ### The transmit engine -/

theorem toNat_add_one {w : Nat} {x : BitVec (w + 1)} (h : x.toNat + 1 < 2 ^ (w + 1)) : (x + 1).toNat = x.toNat + 1 := by
  rw [BitVec.toNat_add_of_lt (by simpa using h)]
  simp

theorem flagCount_toNat (v : BitVec 16) : (flagCount v).toNat = max 1 ((v.toNat + 7) / 8) := by
  rw [flagCount, BitVec.toNat_ofNat, Nat.mod_eq_of_lt (by omega)]

/-- FlagCount is at least 1 and, for a 16-bit argument, at most 8192 (spec/10_state.md R33). -/
theorem flagCount_bounds (v : BitVec 16) : 1 ≤ (flagCount v).toNat ∧ (flagCount v).toNat ≤ 8192 := by
  rw [flagCount_toNat]
  omega

/-- Counting ones with no stuffing check pending never passes 5, in either engine (spec/10_state.md R44, R45). -/
theorem countOnes_le_five {n : BitVec 3} (hn : n.toNat ≤ 5) (h5 : n ≠ 5) (d : Bool) :
    (if d then n + 1 else 0).toNat ≤ 5 := by
  have hne : n.toNat ≠ 5 := fun h => h5 (BitVec.eq_of_toNat_eq h)
  cases d with
  | false => simp
  | true =>
    rw [if_pos rfl, toNat_add_one (by omega)]
    omega

theorem TxInv.ones_ne_five {t : Tx} (h : TxInv t) (hmode : t.mode ≠ .data) : t.ones ≠ 5 := by
  obtain ⟨-, hones, -⟩ := h
  intro h5
  have := hones hmode
  simp [h5] at this

theorem TxInv.after_emitBit {t : Tx} (h : TxInv t) (b : Bool) : TxInv (emitBit b t) := h

theorem TxInv.after_clearOnes {t : Tx} (h : TxInv t) : TxInv { t with ones := 0 } := by
  obtain ⟨-, -, hrest⟩ := h
  exact ⟨by simp, by simp, hrest⟩

theorem TxInv.after_txCheckStuffing {t : Tx} (h : TxInv t) : TxInv (txCheckStuffing t).1 := by
  by_cases h5 : t.ones = 5
  · rw [txCheckStuffing_five h5]
    exact (h.after_emitBit false).after_clearOnes
  · rwa [txCheckStuffing_ne h5]

theorem txInv_txStart {t : Tx} {a len : Word} {pre : BitVec 16} (h2 : 2 ≤ len.toNat) (h276 : len.toNat ≤ 276)
    (hfits : a.toNat + len.toNat ≤ 4294967296) : TxInv (txStart a len pre t) := by
  have hlen : (len.setWidth 9).toNat = len.toNat := by
    rw [BitVec.toNat_setWidth, Nat.mod_eq_of_lt (by omega)]
  obtain ⟨hcount1, hcount⟩ := flagCount_bounds pre
  exact ⟨by simp, by simp, hlen.trans_le h276, (congrArg (a.toNat + ·) hlen).trans_le hfits,
    fun _ => h2.trans_eq hlen.symm, hcount, fun _ => hcount1, by simp, nofun⟩

theorem TxInv.after_enterTail {t : Tx} {post : BitVec 16} (h : TxInv t) (hdata : t.mode = .data) (h5 : t.ones ≠ 5) :
    TxInv (enterTail post t) := by
  obtain ⟨hones, -, hlen, hfits, hon, -, -, hidx, -⟩ := h
  have hones5 : t.ones.toNat ≠ 5 := fun h => h5 (BitVec.eq_of_toNat_eq h)
  obtain ⟨hcount1, hcount⟩ := flagCount_bounds post
  have hbelow : t.ones.toNat < 5 := by omega
  exact ⟨hones, fun _ => hbelow, hlen, hfits, fun _ => hon (by simp [hdata]), hcount, fun _ => hcount1, hidx, nofun⟩

/-- FlagStep in a flag mode: TX_FLAGCNT is at least 1 there, so its decrement does not wrap. -/
theorem TxInv.after_flagStep {t : Tx} (h : TxInv t) (hmode : t.mode = .delayFlag ∨ t.mode = .tail) :
    TxInv (flagStep t).1 := by
  obtain ⟨hnotData, hnotOff⟩ : t.mode ≠ .data ∧ t.mode ≠ .off := by
    rcases hmode with hm | hm <;> simp [hm]
  obtain ⟨hones, hones5, hlen, hfits, hon, hcount, hcount1, hidx, -⟩ := h
  have h1 := hcount1 hmode
  have h2 := hon hnotOff
  have h5 := hones5 hnotData
  have hpred : (t.flagcnt - 1).toNat = t.flagcnt.toNat - 1 :=
    BitVec.toNat_sub_of_le (by simpa [BitVec.le_def] using h1)
  rcases flagStep_cases t with ⟨-, heq⟩ | ⟨-, hmore, heq⟩ | ⟨-, -, -, heq⟩ | ⟨-, -, -, heq⟩
  · rw [heq]
    exact ⟨hones, hones5, hlen, hfits, hon, hcount, hcount1, hidx, fun hd => absurd hd hnotData⟩
  · rw [heq]
    have hpos : (t.flagcnt - 1).toNat ≠ 0 := fun h0 => hmore (BitVec.eq_of_toNat_eq h0)
    have hcount' : (t.flagcnt - 1).toNat ≤ 8192 := by omega
    exact ⟨hones, hones5, hlen, hfits, hon, hcount', fun _ => Nat.one_le_iff_ne_zero.2 hpos, hidx,
      fun hd => absurd hd hnotData⟩
  · rw [heq]
    exact ⟨by simp, by simp, hlen, hfits, fun _ => h2, by simp, by simp, by simp, fun _ => ⟨by simp, h2, by simp⟩⟩
  · rw [heq]
    exact ⟨hones, fun _ => h5, hlen, hfits, by simp, by simp, by simp, hidx, by simp⟩

/-- A data bit with no stuffing pending: TX_ONES reaches at most 5, and TX_IDX advances only with TX_BITPOS at 0. -/
theorem TxInv.after_sendDataBit {t : Tx} (h : TxInv t) (hdata : t.mode = .data) (h5 : t.ones ≠ 5)
    (hidx : t.idx.toNat + 1 < t.len.toNat) (b : Bool) : TxInv (sendDataBit b t) := by
  obtain ⟨hones, -, hlen, hfits, hon, hcount, -, -, hpos⟩ := h
  obtain ⟨h1, -, -⟩ := hpos hdata
  have hnext : (sendDataBit b t).idx.toNat = if t.bitpos + 1 = 0 then t.idx.toNat + 1 else t.idx.toNat := by
    rw [sendDataBit_idx]
    split
    · exact toNat_add_one (by omega)
    · rfl
  have hlow : 1 ≤ (sendDataBit b t).idx.toNat := by
    rw [hnext]
    split <;> omega
  have hhigh : (sendDataBit b t).idx.toNat + 1 ≤ t.len.toNat := by
    rw [hnext]
    split <;> omega
  have hlast : (sendDataBit b t).idx.toNat + 1 = t.len.toNat → t.bitpos + 1 = 0 := by
    rw [hnext]
    split
    · exact fun _ => ‹_›
    · omega
  exact ⟨countOnes_le_five hones h5 b, fun hm => absurd hdata hm, hlen, hfits, hon, hcount, by simp [hdata], by omega,
    fun _ => ⟨hlow, hhigh, hlast⟩⟩

theorem TxInv.after_txNextBit {bus : Bus} {m : Memory} {post : BitVec 16} {t x : Tx} {more : Bool} (h : TxInv t)
    (hx : txNextBit bus m post t = .ok (x, more)) : TxInv x := by
  rcases txNextBit_ok hx with ⟨-, rfl, -⟩ | ⟨hmode, heq⟩ | ⟨hmode, hx⟩
  · exact h
  · have hflag := h.after_flagStep hmode
    rwa [heq] at hflag
  · rcases txDataStep_ok hx with ⟨-, rfl, -⟩ | ⟨h5, -, heq⟩ | ⟨h5, hidx, -, y, -, rfl⟩
    · exact (h.after_emitBit false).after_clearOnes
    · have htail := (h.after_enterTail (post := post) hmode h5).after_flagStep (.inr rfl)
      rwa [← heq] at htail
    · exact h.after_sendDataBit hmode h5 hidx _

theorem exec_keeps_txInv {i : Instr} {s t : State} (h : TxInv s.tx) (hi : exec i s = .next t) : TxInv t.tx := by
  rcases command_families i with hcore | ⟨b, htx⟩ | ⟨c, hrx⟩
  · obtain ⟨htx, -⟩ := coreCommand_keeps_engines hcore hi
    rwa [htx]
  · simp only [List.mem_cons, List.not_mem_nil, or_false] at htx
    rcases htx with rfl | rfl | rfl | rfl
    · rcases exec_txInit_next hi with ⟨-, rfl⟩ | ⟨hargs, rfl⟩
      · rwa [raiseError_tx]
      · obtain ⟨h2, h276, hfits⟩ := txInitArgsOk_iff.1 hargs
        exact txInv_txStart h2 h276 hfits
    · cases hi
      exact h.after_emitBit b
    · cases hi
      exact h.after_txCheckStuffing
    · obtain ⟨x, more, hx, rfl⟩ := exec_txNextBit_next hi
      exact h.after_txNextBit hx
  · rwa [rxCommand_keeps_tx hrx hi]

/-! ### The receive engine -/

theorem RxInv.after_decodeBit {r : Rx} (h : RxInv r) (c : Bool) : RxInv (decodeBit c r) := h

theorem RxInv.after_accumulate {r : Rx} (h : RxInv r) (d : Bool) : RxInv (accumulate d r) := h

theorem RxInv.after_clearOnes {r : Rx} (h : RxInv r) : RxInv { r with ones := 0 } := by
  obtain ⟨-, hidx, hfits, hoff, hfirst, hflags, hdata⟩ := h
  exact ⟨by simp, hidx, hfits, hoff, fun hm => ⟨(hfirst hm).1, by simp⟩, fun hm => ⟨(hflags hm).1, by simp⟩, hdata⟩

/-- RxReset needs nothing of the engine but its buffer, which RX_INIT checks and an overrun keeps. -/
theorem rxInv_rxReset {r : Rx} (h : r.base.toNat + 276 ≤ 4294967296) : RxInv (rxReset r) :=
  ⟨by simp, by simp, h, by simp, by simp, by simp, by simp⟩

theorem RxInv.after_checkUnstuff {r : Rx} (h : RxInv r) (c : Bool) : RxInv (checkUnstuff c r).1 := by
  unfold checkUnstuff
  split
  · exact h.after_decodeBit c
  · exact (h.after_decodeBit c).after_clearOnes

/-- The first flag is in the buffer (spec/43_rx_engine.md R186). -/
theorem RxInv.after_firstFlag {r : Rx} (h : RxInv r) (hmode : r.mode = .firstFlag) :
    RxInv { r with idx := 1, bitpos := 0, mode := .flags } := by
  obtain ⟨hones, -, hfits, -, hfirst, -, -⟩ := h
  exact ⟨hones, by simp, hfits, by simp, by simp, fun _ => ⟨by simp, (hfirst hmode).2⟩, by simp⟩

/-- The first byte that is no flag is in the buffer (spec/43_rx_engine.md R187). -/
theorem RxInv.after_firstByte {r : Rx} (h : RxInv r) : RxInv { r with idx := 2, ones := 0, mode := .data } := by
  obtain ⟨-, -, hfits, -⟩ := h
  exact ⟨by simp, by simp, hfits, by simp, by simp, by simp, by simp⟩

/-- The closing flag is in the buffer, at an index below 276 (spec/43_rx_engine.md R188). -/
theorem RxInv.after_frameEnd {r : Rx} (h : RxInv r) (hroom : r.idx.toNat < 276) : RxInv { r with mode := .off } := by
  obtain ⟨hones, hidx, hfits, -⟩ := h
  exact ⟨hones, hidx, hfits, fun _ => Nat.le_of_lt_succ hroom, nofun, nofun, nofun⟩

/-- A data bit with no check pending: RX_ONES reaches at most 5. -/
theorem RxInv.after_countBit {r : Rx} (h : RxInv r) (hmode : r.mode = .data) (h5 : r.ones ≠ 5) (d : Bool)
    (pos : BitVec 3) : RxInv { r with ones := if d then r.ones + 1 else 0, bitpos := pos } := by
  obtain ⟨hones, hidx, hfits, -, -, -, hdata⟩ := h
  exact ⟨countOnes_le_five hones h5 d, hidx, hfits, by simp [hmode], by simp [hmode], by simp [hmode], hdata⟩

/-- A whole byte is in the buffer, at an index below 276 (spec/43_rx_engine.md R188). -/
theorem RxInv.after_byte {r : Rx} (h : RxInv r) (hmode : r.mode = .data) (hroom : r.idx.toNat < 276) :
    RxInv { r with idx := r.idx + 1 } := by
  obtain ⟨hones, -, hfits, -, -, -, hdata⟩ := h
  have h2 := hdata hmode
  have hnext : (r.idx + 1).toNat = r.idx.toNat + 1 := toNat_add_one (by omega)
  exact ⟨hones, hnext.trans_le hroom, hfits, by simp [hmode], by simp [hmode], by simp [hmode],
    fun _ => (h2.trans (Nat.le_succ _)).trans_eq hnext.symm⟩

/-- RxStore leaves the engine alone when it stores, and resets it when the buffer is full. -/
theorem rxStore_rx {x : Byte} {s v : State} {stored : Bool} (h : rxStore x s = .ok (v, stored)) :
    (stored = false ∧ v.rx = rxReset s.rx) ∨ (stored = true ∧ s.rx.idx.toNat < 276 ∧ v.rx = s.rx) := by
  rcases rxStore_ok h with ⟨-, rfl, rfl⟩ | ⟨hroom, rfl, -, rfl⟩
  · exact .inl ⟨rfl, rfl⟩
  · exact .inr ⟨rfl, hroom, rfl⟩

theorem RxInv.after_rxStore {x : Byte} {s v : State} {stored : Bool} (hv : rxStore x s = .ok (v, stored))
    (h : RxInv s.rx) : RxInv v.rx := by
  rcases rxStore_rx hv with ⟨-, hrx⟩ | ⟨-, -, hrx⟩
  · obtain ⟨-, -, hfits, -⟩ := h
    rw [hrx]
    exact rxInv_rxReset hfits
  · rwa [hrx]

/-- RxStore finds room: the engine is as it was. -/
theorem rxStore_true_rx {x : Byte} {s v : State} (h : rxStore x s = .ok (v, true)) :
    s.rx.idx.toNat < 276 ∧ v.rx = s.rx := by
  rcases rxStore_rx h with ⟨hstored, -⟩ | ⟨-, hroom, hrx⟩
  · cases hstored
  · exact ⟨hroom, hrx⟩

theorem firstFlagStep_keeps_rxInv {c more : Bool} {s u : State} (h : RxInv s.rx) (hmode : s.rx.mode = .firstFlag)
    (hu : firstFlagStep c s = .ok (u, more)) : RxInv u.rx := by
  have hr := (h.after_decodeBit c).after_accumulate (decodedBit c s.rx)
  obtain ⟨-, ⟨-, rfl⟩ | ⟨-, v, stored, hv, rfl⟩⟩ := firstFlagStep_ok hu
  · exact hr
  · have hvmode : v.rx.mode = .firstFlag := by
      rcases rxStore_rx hv with ⟨-, hrx⟩ | ⟨-, -, hrx⟩
      · rw [hrx]; rfl
      · rw [hrx]; exact hmode
    exact (RxInv.after_rxStore hv hr).after_firstFlag hvmode

theorem flagsStep_keeps_rxInv {c more : Bool} {s u : State} (h : RxInv s.rx)
    (hu : flagsStep c s = .ok (u, more)) : RxInv u.rx := by
  have hr := (h.after_decodeBit c).after_accumulate (decodedBit c s.rx)
  obtain ⟨-, ⟨-, rfl⟩ | ⟨-, -, v, stored, hv, rfl⟩⟩ := flagsStep_ok hu
  · exact hr
  · exact (RxInv.after_rxStore hv hr).after_firstByte

theorem rxCheckedStep_keeps_rxInv {c more : Bool} {s u : State} (h : RxInv s.rx)
    (hu : rxCheckedStep c s = .ok (u, more)) : RxInv u.rx := by
  have hr := h.after_checkUnstuff c
  obtain ⟨-, -, rfl⟩ | ⟨-, -, hfull⟩ | ⟨-, -, v, hv, rfl⟩ := rxCheckedStep_ok hu
  · exact hr
  · exact RxInv.after_rxStore hfull hr
  · obtain ⟨hroom, hrx⟩ := rxStore_true_rx hv
    simp only [hrx]
    exact hr.after_frameEnd hroom

theorem rxPlainStep_keeps_rxInv {c more : Bool} {s u : State} (h : RxInv s.rx) (hmode : s.rx.mode = .data)
    (h5 : s.rx.ones ≠ 5) (hu : rxPlainStep c s = .ok (u, more)) : RxInv u.rx := by
  have hr := ((h.after_decodeBit c).after_accumulate (decodedBit c s.rx)).after_countBit hmode h5 (decodedBit c s.rx)
    (s.rx.bitpos + 1)
  obtain ⟨-, ⟨-, rfl⟩ | ⟨-, hfull⟩ | ⟨-, v, hv, rfl⟩⟩ := rxPlainStep_ok hu
  · exact hr
  · exact RxInv.after_rxStore hfull hr
  · obtain ⟨hroom, hrx⟩ := rxStore_true_rx hv
    simp only [hrx]
    exact hr.after_byte hmode hroom

theorem rxNextBit_keeps_rxInv {c more : Bool} {s u : State} (h : RxInv s.rx) (hu : rxNextBit c s = .ok (u, more)) :
    RxInv u.rx := by
  rcases rxNextBit_ok hu with ⟨-, -, rfl⟩ | ⟨hmode, hu⟩ | ⟨-, hu⟩ | ⟨-, -, hu⟩ | ⟨hmode, h5, hu⟩
  · exact h.after_decodeBit c
  · exact firstFlagStep_keeps_rxInv h hmode hu
  · exact flagsStep_keeps_rxInv h hu
  · exact rxCheckedStep_keeps_rxInv h hu
  · exact rxPlainStep_keeps_rxInv h hmode h5 hu

theorem exec_keeps_rxInv {i : Instr} {s t : State} (h : RxInv s.rx) (hi : exec i s = .next t) : RxInv t.rx := by
  rcases command_families i with hcore | ⟨b, htx⟩ | ⟨c, hrx⟩
  · obtain ⟨-, hrx⟩ := coreCommand_keeps_engines hcore hi
    rwa [hrx]
  · rwa [txCommand_keeps_rx htx hi]
  · simp only [List.mem_cons, List.not_mem_nil, or_false] at hrx
    rcases hrx with rfl | rfl | rfl | rfl
    · rcases exec_rxInit_next hi with ⟨-, rfl⟩ | ⟨hargs, rfl⟩
      · rwa [raiseError_rx]
      · exact rxInv_rxReset (r := { s.rx with base := s.arg0 }) (rxInitArgsOk_iff.1 hargs)
    · cases hi
      exact h.after_decodeBit c
    · cases hi
      exact h.after_checkUnstuff c
    · obtain ⟨u, more, hu, rfl⟩ := exec_rxNextBit_next hi
      rw [setResRx_rx]
      exact rxNextBit_keeps_rxInv h hu

/-! ### The whole machine -/

/-- Settles O54: each conjunct at the values of spec/10_state.md R23. -/
theorem resetMeetsTheInvariant : Obligations.ResetMeetsTheInvariant := by
  unfold Obligations.ResetMeetsTheInvariant
  decide

/-- The invariant speaks of the engines and the memory alone. -/
theorem MachineInv.congr {s t : State} (h : MachineInv s) (htx : t.tx = s.tx) (hrx : t.rx = s.rx)
    (hmem : t.mem = s.mem) : MachineInv t := by
  rwa [MachineInv, htx, hrx, hmem]

theorem exec_keeps_machineInv {i : Instr} {s t : State} (h : MachineInv s) (hi : exec i s = .next t) :
    MachineInv t := by
  obtain ⟨htx, hrx, hmem⟩ := h
  exact ⟨exec_keeps_txInv htx hi, exec_keeps_rxInv hrx hi, exec_wf hmem hi⟩

/-- Everything the issue of a command word can do (spec/30_encoding.md R85 to R87). -/
theorem issue_next {w : Word} {s t : State} (h : issue w s = .next t) :
    (∃ i, decode w = .ok i ∧ exec i s = .next t) ∨ ∃ e, decode w = .error e ∧ t = raiseError .illCmd s := by
  unfold issue at h
  split at h
  case h_1 i hi => exact .inl ⟨i, hi, h⟩
  case h_2 e he =>
    cases h
    exact .inr ⟨e, he, rfl⟩

theorem issue_keeps_machineInv {w : Word} {s t : State} (h : MachineInv s) (hi : issue w s = .next t) :
    MachineInv t := by
  rcases issue_next hi with ⟨i, -, hexec⟩ | ⟨e, -, rfl⟩
  · exact exec_keeps_machineInv h hexec
  · exact h.congr (by simp) (by simp) (by simp)

theorem regWriteEffect_keeps_machineInv {r : Reg} {v : Word} {s t : State} (h : MachineInv s)
    (ht : regWriteEffect r v s = .next t) : MachineInv t := by
  cases r
  case cmd =>
    obtain ⟨u, hu, rfl⟩ := onNext_eq_next.1 ht
    exact (issue_keeps_machineInv h hu).congr rfl rfl rfl
  all_goals
    cases ht
    exact h

theorem hostWrite_keeps_machineInv {width : AccessWidth} {o : BitVec 8} {v : Word} {s t : State} (h : MachineInv s)
    (ht : hostWrite width o v s = .next t) : MachineInv t := by
  unfold hostWrite at ht
  split at ht
  case h_1 =>
    split at ht
    · exact regWriteEffect_keeps_machineInv h ht
    · cases ht
      exact h
  all_goals
    cases ht
    exact h

theorem hostLoad_keeps_machineInv {a : Word} {s t : State} (h : MachineInv s) (ht : hostLoad a s = .next t) :
    MachineInv t := by
  unfold hostLoad at ht
  split at ht
  · cases ht
    exact h
  · cases ht

theorem resetCore_keeps_machineInv {s : State} (hmem : Memory.wf s.mem = true) : MachineInv (resetCore s) := by
  obtain ⟨htx, hrx, -⟩ := resetMeetsTheInvariant
  exact ⟨htx, hrx, hmem⟩

theorem serve_keeps_machineInv {e : HostEvent} {s t : State} (h : MachineInv s) (ht : serve e s = .next t) :
    MachineInv t := by
  have ⟨htx, hrx, hmem⟩ := h
  cases e with
  | regRead width o =>
    cases ht
    exact h
  | regWrite width o v => exact hostWrite_keeps_machineInv h ht
  | memRead a => exact hostLoad_keeps_machineInv h ht
  | memWrite a v =>
    cases ht
    exact ⟨htx, hrx, Memory.wf_write a.isLt hmem⟩
  | contend a =>
    cases ht
    exact h
  | reset =>
    cases ht
    exact resetCore_keeps_machineInv hmem
  | cmdCutByReset v =>
    obtain ⟨u, hu, rfl⟩ := onNext_eq_next.1 ht
    obtain ⟨-, -, humem⟩ := issue_keeps_machineInv h hu
    exact resetCore_keeps_machineInv (s := { s with mem := cutMemory s.bus.tick s.mem u.mem }) (cutMemory_wf humem)

/-- Settles O55: the queue is not part of the invariant, and serving any act keeps it. -/
theorem stepKeepsTheInvariant : Obligations.StepKeepsTheInvariant := by
  intro s t h ht
  cases hq : s.hostIn with
  | nil =>
    rw [step_nil hq] at ht
    cases ht
    exact h
  | cons e rest =>
    rw [step_cons hq] at ht
    exact serve_keeps_machineInv (s := { s with hostIn := rest }) h ht

/-! ### The idle engine -/

/-- In TX_OFF the commands but TX_INIT reach the engine only by EmitBit: no stuffing is pending, and TX_NEXT_BIT sends
nothing. -/
theorem txCommand_idle {i : Instr} {b : Bool} {s t : State} (hinv : TxInv s.tx) (hoff : s.tx.mode = .off)
    (hi : i ∈ [.txBit b, .txCheckStuffing, .txNextBit]) (h : exec i s = .next t) :
    (∃ b, t.tx = emitBit b s.tx) ∨ t.tx = s.tx := by
  simp only [List.mem_cons, List.not_mem_nil, or_false] at hi
  rcases hi with rfl | rfl | rfl
  · cases h
    exact .inl ⟨b, rfl⟩
  · cases h
    have h5 := hinv.ones_ne_five (by simp [hoff])
    exact .inr (congrArg Prod.fst (txCheckStuffing_ne h5))
  · obtain ⟨x, more, hx, rfl⟩ := exec_txNextBit_next h
    rcases txNextBit_ok hx with ⟨-, rfl, -⟩ | ⟨hflag | hflag, -⟩ | ⟨hdata, -⟩
    · exact .inr rfl
    · exact absurd (hoff.symm.trans hflag) nofun
    · exact absurd (hoff.symm.trans hflag) nofun
    · exact absurd (hoff.symm.trans hdata) nofun

/-- Settles O59: the TX commands but TX_INIT reach the idle engine only by EmitBit, and no other command reaches it. -/
theorem commandsKeepOperandsAndTheIdleEngine : Obligations.CommandsKeepOperandsAndTheIdleEngine := by
  intro s t i h
  obtain ⟨h0, h1, h2, hpre, hpost⟩ := exec_keeps_operands h
  refine ⟨h0, h1, h2, hpre, hpost, fun hinv hoff hinit => ?_⟩
  have hidle : (∃ b, t.tx = emitBit b s.tx) ∨ t.tx = s.tx := by
    rcases command_families i with hi | ⟨b, hi⟩ | ⟨c, hi⟩
    · exact .inr (coreCommand_keeps_engines hi h).1
    · exact txCommand_idle hinv hoff ((List.mem_cons.1 hi).resolve_left hinit) h
    · exact .inr (rxCommand_keeps_tx hi h)
  rcases hidle with ⟨b, htx⟩ | htx
  · rw [htx]
    rfl
  · rw [htx]

end Sys2Proof.Machine
end

section
/-!
PROOFS. Stores from outside, and where the machine stops (spec/20_memory.md R69, R71, R76): below 2^ADDR_W a read stops only
at a byte nothing has written, so a command that keeps its accesses there stops only at such a byte, and at the first one it
comes to.
-/

namespace Sys2Proof.Machine

/-! ### Stores from outside -/

/-- Settles O13: the store is a write of the memory, and the laws of the memory read it back. -/
theorem storesFromOutsideChangeOneByte : Obligations.StoresFromOutsideChangeOneByte := by
  intro s a x hwf
  exact ⟨s.mem.write a.toNat x, rfl, fun b => Memory.read_write hwf,
    fun use hc => busRead_held a.isLt hc (Memory.read_write_same ..)⟩

/-! ### What has a value -/

/-- Below 2^ADDR_W a read completes exactly where the byte has a value. -/
theorem busRead_completes_iff {bus : Bus} {use : ReadUse} {m : Memory} {a : Nat} :
    (∃ x, busRead bus use m a = .ok x) ↔ a < 4294967296 ∧ (a ∈ bus.contended ∨ ∃ x, m.read a = some x) := by
  constructor
  · rintro ⟨x, hx⟩
    obtain ⟨ha, ⟨hc, -⟩ | ⟨-, hm⟩⟩ := busRead_ok hx
    · exact ⟨ha, .inl hc⟩
    · exact ⟨ha, .inr ⟨x, hm⟩⟩
  · rintro ⟨ha, hvalue⟩
    by_cases hc : a ∈ bus.contended
    · exact ⟨_, busRead_contended ha hc⟩
    · obtain ⟨x, hx⟩ := hvalue.resolve_left hc
      exact ⟨x, busRead_held ha hc hx⟩

/-- A read of a byte that nothing has written and nobody is writing (spec/20_memory.md R76). -/
theorem busRead_unwritten {bus : Bus} {use : ReadUse} {m : Memory} {a : Nat} (ha : a < 4294967296)
    (hc : a ∉ bus.contended) (hm : m.read a = none) : busRead bus use m a = .error (.unwrittenRead a) := by
  simp [busRead, ha, hc, hm]

/-- `m'` lists every address that `m` lists: no operation takes a byte's value away. -/
def Memory.KeepsListed (m m' : Memory) : Prop := ∀ a, m'.read a = none → m.read a = none

theorem Memory.keepsListed_write {m : Memory} (a : Nat) (v : Byte) (hm : m.wf = true) : m.KeepsListed (m.write a v) := by
  intro b hb
  rw [Memory.read_write hm] at hb
  split at hb
  · cases hb
  · exact hb

theorem copyLoop_keepsListed {bus : Bus} {n src dst : Nat} {m m' : Memory} (hm : m.wf = true)
    (h : copyLoop bus n src dst m = .ok m') : m.KeepsListed m' := by
  obtain ⟨-, hout, hin⟩ := copyLoop_ok hm h
  intro b hb
  by_cases hd : b < dst ∨ dst + n ≤ b
  · rwa [← hout b hd]
  · obtain ⟨x, hx⟩ := hin (b - dst) (by omega)
    rw [show dst + (b - dst) = b by omega, hb] at hx
    cases hx

theorem busRead_completes_of_keepsListed {bus : Bus} {use : ReadUse} {m m' : Memory} {a : Nat} (hk : m.KeepsListed m')
    (h : ∃ x, busRead bus use m a = .ok x) : ∃ x, busRead bus use m' a = .ok x := by
  obtain ⟨ha, hvalue⟩ := busRead_completes_iff.1 h
  refine busRead_completes_iff.2 ⟨ha, hvalue.imp_right fun ⟨x, hx⟩ => ?_⟩
  refine Option.ne_none_iff_exists'.1 fun hnone => ?_
  rw [hk a hnone] at hx
  cases hx

/-! ### The envelope (spec/41_frame_assembler.md R121) -/

/-- The first 17 bytes of a frame: the opening flag, the header, control and PID. -/
def envelopeBytes : List Byte := Config.flag :: (Config.hdrBytes ++ [Config.control, Config.pid])

theorem length_envelopeBytes : envelopeBytes.length = 17 := rfl

theorem length_hdrBytes : Config.hdrBytes.length = 14 := rfl

theorem getElem?_envelopeBytes {i : Nat} (hi : i < 17) : envelopeBytes[i]? =
    if i = 16 then some Config.pid else if i = 15 then some Config.control
    else if i = 0 then some Config.flag else Config.hdrBytes[i - 1]? := by
  cases i with
  | zero => rfl
  | succ i =>
    rw [envelopeBytes, List.getElem?_cons_succ]
    by_cases hhdr : i < 14
    · rw [List.getElem?_append_left (hhdr.trans_eq length_hdrBytes.symm), if_neg (by omega), if_neg (by omega),
        if_neg (by omega), Nat.add_sub_cancel]
    · obtain rfl | rfl : i = 14 ∨ i = 15 := by omega
      · rfl
      · rfl

/-- Below 2^ADDR_W the envelope goes through: the first 17 bytes and the last one land, and nothing else changes. -/
theorem writeEnvelope_lt {m : Memory} {d len : Nat} (hm : m.wf = true) (hl : 18 ≤ len) (h : d + len ≤ 4294967296) :
    ∃ m', writeEnvelope m d len = .ok m' ∧ m'.wf = true ∧
      ∀ b, m'.read b = if b = d + len - 1 then some Config.flag
        else if d ≤ b ∧ b < d + 17 then envelopeBytes[b - d]? else m.read b := by
  have hd : d < 4294967296 := by omega
  have hlast : d + len - 1 < 4294967296 := by omega
  have hctl : d + 15 < 4294967296 := by omega
  have hpid : d + 16 < 4294967296 := by omega
  have hw2 := Memory.wf_write (v := Config.flag) hlast (Memory.wf_write (v := Config.flag) hd hm)
  obtain ⟨m3, h3⟩ := writeSeq_lt (vs := Config.hdrBytes)
    (m := (m.write d Config.flag).write (d + len - 1) Config.flag) (a := d + 1)
    (by rw [length_hdrBytes]; omega)
  obtain ⟨hw3, -, hread3⟩ := writeSeq_ok hw2 h3
  have hw4 := Memory.wf_write (v := Config.control) hctl hw3
  refine ⟨(m3.write (d + 15) Config.control).write (d + 16) Config.pid, ?_, Memory.wf_write hpid hw4, fun b => ?_⟩
  · simp only [writeEnvelope, bind, Except.bind, busWrite_lt hd, busWrite_lt hlast, h3, busWrite_lt hctl,
      busWrite_lt hpid]
  · rw [Memory.read_write hw4, Memory.read_write hw3, hread3, Memory.read_write (Memory.wf_write hd hm),
      Memory.read_write hm, length_hdrBytes]
    by_cases henv : d ≤ b ∧ b < d + 17
    · obtain ⟨i, rfl⟩ := Nat.exists_eq_add_of_le henv.1
      have hi : i < 17 := by omega
      have hne : d + i ≠ d + len - 1 := by omega
      rw [if_neg hne, if_neg hne, if_pos henv, Nat.add_sub_cancel_left, getElem?_envelopeBytes hi]
      simp only [Nat.add_left_cancel_iff, Nat.add_sub_add_left]
      have hhdr : d + 1 ≤ d + i ∧ d + i < d + 1 + 14 ↔ i ≠ 0 ∧ i < 15 := by omega
      grind
    · rw [if_neg (by omega), if_neg (by omega), if_neg (by omega), if_neg henv, if_neg (show b ≠ d by omega)]

/-- Which bytes have a value after the envelope: those it writes, and those that had one. -/
theorem writeEnvelope_lists {m : Memory} {d len : Nat} (hm : m.wf = true) (hl : 18 ≤ len) (h : d + len ≤ 4294967296) :
    ∃ m', writeEnvelope m d len = .ok m' ∧ m'.wf = true ∧ m.KeepsListed m' ∧
      (∀ b, (d ≤ b ∧ b < d + 17) ∨ b = d + len - 1 → ∃ x, m'.read b = some x) ∧
      ∀ b, ¬((d ≤ b ∧ b < d + 17) ∨ b = d + len - 1) → m'.read b = m.read b := by
  obtain ⟨m', hrun, hm', hread⟩ := writeEnvelope_lt hm hl h
  have hin : ∀ b, (d ≤ b ∧ b < d + 17) ∨ b = d + len - 1 → ∃ x, m'.read b = some x := by
    intro b hb
    by_cases hlast : b = d + len - 1
    · exact ⟨_, by rw [hread, if_pos hlast]⟩
    · have hlt : b - d < envelopeBytes.length := by rw [length_envelopeBytes]; omega
      exact ⟨_, by rw [hread, if_neg hlast, if_pos (hb.resolve_right hlast), List.getElem?_eq_getElem hlt]⟩
  have hout : ∀ b, ¬((d ≤ b ∧ b < d + 17) ∨ b = d + len - 1) → m'.read b = m.read b := by
    intro b hb
    rw [hread, if_neg (not_or.1 hb).2, if_neg (not_or.1 hb).1]
  refine ⟨m', hrun, hm', fun b hnone => ?_, hin, hout⟩
  rw [← hout b fun hb => ?_, hnone]
  obtain ⟨x, hx⟩ := hin b hb
  exact absurd (hnone.symm.trans hx) nofun

/-! ### The first byte with no value stops the command -/

/-- The CRC pass stops at the first read that stops. -/
theorem crcLoop_error {bus : Bus} {m : Memory} {f : Fault} : ∀ {k n a : Nat} {c : BitVec 16}, k < n →
    (∀ j < k, ∃ x, busRead bus .crc m (a + j) = .ok x) → busRead bus .crc m (a + k) = .error f →
    crcLoop bus m n a c = .error f
  | _, 0, _, _, hk, _, _ => absurd hk (Nat.not_lt_zero _)
  | 0, n + 1, a, c, _, _, hstop => by
    simp only [crcLoop, bind, Except.bind, show busRead bus .crc m a = .error f from hstop]
  | k + 1, n + 1, a, c, hk, hread, hstop => by
    obtain ⟨x, hx⟩ : ∃ x, busRead bus .crc m a = .ok x := hread 0 (Nat.succ_pos k)
    have hshift : ∀ j, a + 1 + j = a + (j + 1) := by omega
    have hrest : crcLoop bus m n (a + 1) (crcByte c x) = .error f :=
      crcLoop_error (Nat.lt_of_succ_lt_succ hk) (fun j hj => hshift j ▸ hread (j + 1) (Nat.succ_lt_succ hj))
        (hshift k ▸ hstop)
    simp only [crcLoop, bind, Except.bind, hx, hrest]

/-- Settles O19: both commands begin with the same CRC pass, which stops at the first read that stops. -/
theorem crcStopsAtAnUnwrittenByte : Obligations.CrcStopsAtAnUnwrittenByte := by
  intro s k h3 h276 hfits hk hread hc hnone
  have hargs : crcArgsOk s = true := crcArgsOk_iff.2 ⟨h3, h276, hfits⟩
  have hcrc : frameCrc s.bus s.mem s.arg0.toNat s.arg1.toNat = .error (.unwrittenRead (s.arg0.toNat + 1 + k)) := by
    simp only [frameCrc, bind, Except.bind, crcLoop_error hk hread (busRead_unwritten (by omega) hc hnone)]
  constructor
  · simp only [exec, execCrcCompute, if_pos hargs, bind, Except.bind, hcrc, finish]
  · simp only [exec, execCrcPut, crcPut, if_pos hargs, bind, Except.bind, hcrc, finish]

/-- The info copy stops at the first byte with no value when its turn comes, neither from before nor by the copy's own
earlier writes (spec/41_frame_assembler.md R122). -/
theorem copyLoop_unwritten {bus : Bus} : ∀ {k n src dst : Nat} {m : Memory}, m.wf = true → k < n →
    dst + k ≤ 4294967296 → src + k < 4294967296 →
    (∀ j < k, (dst ≤ src + j ∧ src + j < dst + j) ∨ ∃ x, busRead bus .copy m (src + j) = .ok x) →
    ¬(dst ≤ src + k ∧ src + k < dst + k) → src + k ∉ bus.contended → m.read (src + k) = none →
    copyLoop bus n src dst m = .error (.unwrittenRead (src + k))
  | _, 0, _, _, _, _, hk, _, _, _, _, _, _ => absurd hk (Nat.not_lt_zero _)
  | 0, n + 1, src, dst, m, _, _, _, hsrc, _, _, hc, hnone => by
    have hstop : busRead bus .copy m src = .error (.unwrittenRead src) := busRead_unwritten hsrc hc hnone
    simp only [copyLoop, bind, Except.bind, hstop, Nat.add_zero]
  | k + 1, n + 1, src, dst, m, hm, hk, hdst, hsrc, hread, hnew, hc, hnone => by
    have hshift : ∀ j, src + 1 + j = src + (j + 1) := by omega
    obtain ⟨x, hx⟩ : ∃ x, busRead bus .copy m src = .ok x :=
      (hread 0 (Nat.succ_pos k)).resolve_left (by omega)
    have hread' : ∀ j < k, (dst + 1 ≤ src + 1 + j ∧ src + 1 + j < dst + 1 + j) ∨
        ∃ y, busRead bus .copy (m.write dst x) (src + 1 + j) = .ok y := by
      intro j hj
      by_cases hfirst : src + 1 + j = dst
      · exact .inr (busRead_completes_iff.2 ⟨by omega, .inr ⟨x, hfirst ▸ Memory.read_write_same ..⟩⟩)
      · rcases hread (j + 1) (Nat.succ_lt_succ hj) with hcopied | hheld
        · exact .inl (by omega)
        · exact .inr (hshift j ▸ busRead_completes_of_keepsListed (Memory.keepsListed_write dst x hm) hheld)
    have hrest := copyLoop_unwritten (bus := bus) (n := n) (Memory.wf_write (v := x) (show dst < 4294967296 by omega) hm)
      (Nat.lt_of_succ_lt_succ hk) (show dst + 1 + k ≤ 4294967296 by omega) (hshift k ▸ hsrc) hread' (by omega)
      (hshift k ▸ hc) (by rw [Memory.read_write_ne hm (by omega), hshift, hnone])
    rw [hshift] at hrest
    simp only [copyLoop, bind, Except.bind, hx, busWrite_lt (show dst < 4294967296 by omega), hrest]

/-- The frame assembly stops at the first info byte with no value when its turn comes. -/
theorem assembleFrame_unwritten {bus : Bus} {m : Memory} {d src n k : Nat} (hm : m.wf = true) (hk : k < n)
    (hd : d + (n + 20) ≤ 4294967296) (hsrc : src + n ≤ 4294967296)
    (hread : ∀ j < k, ((d ≤ src + j ∧ src + j < d + 17 + j) ∨ src + j = d + n + 19) ∨
      ∃ x, busRead bus .copy m (src + j) = .ok x)
    (hnew : ¬((d ≤ src + k ∧ src + k < d + 17 + k) ∨ src + k = d + n + 19)) (hc : src + k ∉ bus.contended)
    (hnone : m.read (src + k) = none) : assembleFrame bus m d src n = .error (.unwrittenRead (src + k)) := by
  obtain ⟨m1, h1, hm1, hkeep1, hin1, hout1⟩ := writeEnvelope_lists (len := n + 20) hm (by omega) hd
  have hnone1 : m1.read (src + k) = none := (hout1 _ (by omega)).trans hnone
  have hread' : ∀ j < k, (d + 17 ≤ src + j ∧ src + j < d + 17 + j) ∨
      ∃ x, busRead bus .copy m1 (src + j) = .ok x := by
    intro j hj
    by_cases hcopied : d + 17 ≤ src + j ∧ src + j < d + 17 + j
    · exact .inl hcopied
    · refine .inr ?_
      rcases hread j hj with henv | hheld
      · exact busRead_completes_iff.2 ⟨by omega, .inr (hin1 _ (by omega))⟩
      · exact busRead_completes_of_keepsListed hkeep1 hheld
  have hcopy : copyLoop bus n src (d + 17) m1 = .error (.unwrittenRead (src + k)) :=
    copyLoop_unwritten hm1 hk (by omega) (by omega) hread' (by omega) hc hnone1
  simp only [assembleFrame, bind, Except.bind, h1, hcopy]

/-- DataStep with no stuffing pending and a byte to send stops where its read stops. -/
theorem txDataStep_read_error {bus : Bus} {m : Memory} {post : BitVec 16} {t : Tx} {f : Fault} (h5 : t.ones ≠ 5)
    (hlen : t.idx.toNat + 1 < t.len.toNat) (h : busRead bus .txBit m (t.base.toNat + t.idx.toNat) = .error f) :
    txDataStep bus m post t = .error f := by
  simp only [txDataStep, txCheckStuffing_ne h5, if_neg (Nat.not_le.2 hlen), bind, Except.bind, h]

/-- Settles O26: the info copy reads memory as the envelope and its own writes leave it; TX_NEXT_BIT reads it as it is. -/
theorem infoAndDataReadsStopAtAnUnwrittenByte : Obligations.InfoAndDataReadsStopAtAnUnwrittenByte := by
  intro s hm
  constructor
  · intro k hk hd hsrc written hread hnew hc hnone
    have hargs : uiArgsOk s = true := uiArgsOk_iff.2 ⟨hd, hsrc⟩
    have hframe : assembleFrame s.bus s.mem s.arg0.toNat s.arg1.toNat (infoLength s) =
        .error (.unwrittenRead (s.arg1.toNat + k)) := assembleFrame_unwritten hm hk hd hsrc hread hnew hc hnone
    simp only [exec, execUiPrepare, if_pos hargs, bind, Except.bind, hframe, finish]
  · intro hmode h5 hlen haddr hc hnone
    have hstep : txNextBit s.bus s.mem s.cfgPost s.tx = .error (.unwrittenRead (s.tx.base.toNat + s.tx.idx.toNat)) := by
      simp only [txNextBit, hmode, txDataStep_read_error h5 hlen (busRead_unwritten haddr hc hnone)]
    simp only [exec, execTxNextBit, bind, Except.bind, hstep, finish]

/-! ### Nothing else stops a command -/

/-- A computation over memory that completes, or stops at a byte `m` does not list (spec/20_memory.md R69, R76). -/
inductive FailsOnlyUnwritten (m : Memory) {α : Type} : Except Fault α → Prop
  | ok (x : α) : FailsOnlyUnwritten m (.ok x)
  | unwritten {a : Nat} (h : m.read a = none) : FailsOnlyUnwritten m (.error (.unwrittenRead a))

theorem FailsOnlyUnwritten.bind {m : Memory} {α β : Type} {r : Except Fault α} {g : α → Except Fault β}
    (hr : FailsOnlyUnwritten m r) (hg : ∀ x, r = .ok x → FailsOnlyUnwritten m (g x)) :
    FailsOnlyUnwritten m (r >>= g) := by
  cases hr with
  | ok x => exact hg x rfl
  | unwritten h => exact .unwritten h

/-- A byte that memory does not list after some writes was not listed before them. -/
theorem FailsOnlyUnwritten.before {m m' : Memory} {α : Type} {r : Except Fault α} (hk : m.KeepsListed m')
    (hr : FailsOnlyUnwritten m' r) : FailsOnlyUnwritten m r := by
  cases hr with
  | ok x => exact .ok x
  | unwritten h => exact .unwritten (hk _ h)

theorem busRead_failsOnlyUnwritten {bus : Bus} {use : ReadUse} {m : Memory} {a : Nat} (ha : a < 4294967296) :
    FailsOnlyUnwritten m (busRead bus use m a) := by
  cases h : busRead bus use m a with
  | ok x => exact .ok x
  | error f =>
    rcases busRead_error h with ⟨-, hout⟩ | ⟨rfl, -, -, hnone⟩
    · exact absurd ha (Nat.not_lt.2 hout)
    · exact .unwritten hnone

theorem busWrite_failsOnlyUnwritten {m m' : Memory} {a : Nat} {v : Byte} (ha : a < 4294967296) :
    FailsOnlyUnwritten m (busWrite m' a v) := by
  rw [busWrite_lt ha]
  exact .ok _

theorem crcLoop_failsOnlyUnwritten {bus : Bus} {m : Memory} : ∀ {n a : Nat} {c : BitVec 16}, a + n ≤ 4294967296 →
    FailsOnlyUnwritten m (crcLoop bus m n a c)
  | 0, _, c, _ => .ok c
  | _ + 1, _, _, h =>
    (busRead_failsOnlyUnwritten (by omega)).bind fun _ _ => crcLoop_failsOnlyUnwritten (by omega)

theorem frameCrc_failsOnlyUnwritten {bus : Bus} {m : Memory} {a len : Nat} (hl : 3 ≤ len) (h : a + len ≤ 4294967296) :
    FailsOnlyUnwritten m (frameCrc bus m a len) :=
  (crcLoop_failsOnlyUnwritten (by omega)).bind fun _ _ => .ok _

theorem crcPut_failsOnlyUnwritten {bus : Bus} {m : Memory} {a len : Nat} (hl : 3 ≤ len) (h : a + len ≤ 4294967296) :
    FailsOnlyUnwritten m (crcPut bus m a len) :=
  (frameCrc_failsOnlyUnwritten hl h).bind fun _ _ => (busWrite_failsOnlyUnwritten (by omega)).bind fun _ _ =>
    (busWrite_failsOnlyUnwritten (by omega)).bind fun _ _ => .ok _

theorem copyLoop_failsOnlyUnwritten {bus : Bus} : ∀ {n src dst : Nat} {m : Memory}, m.wf = true →
    src + n ≤ 4294967296 → dst + n ≤ 4294967296 → FailsOnlyUnwritten m (copyLoop bus n src dst m)
  | 0, _, _, m, _, _, _ => .ok m
  | n + 1, src, dst, m, hm, hsrc, hdst => by
    have ha : dst < 4294967296 := by omega
    refine (busRead_failsOnlyUnwritten (by omega)).bind fun x _ => ?_
    rw [busWrite_lt ha]
    exact (copyLoop_failsOnlyUnwritten (Memory.wf_write ha hm) (by omega) (by omega)).before
      (Memory.keepsListed_write dst x hm)

theorem assembleFrame_failsOnlyUnwritten {bus : Bus} {m : Memory} {d src n : Nat} (hm : m.wf = true)
    (hd : d + (n + 20) ≤ 4294967296) (hsrc : src + n ≤ 4294967296) :
    FailsOnlyUnwritten m (assembleFrame bus m d src n) := by
  obtain ⟨m1, h1, hm1, hkeep1, -⟩ := writeEnvelope_lists (len := n + 20) hm (by omega) hd
  have hcopy := copyLoop_failsOnlyUnwritten (bus := bus) (src := src) (dst := d + 17) (n := n) hm1 hsrc (by omega)
  rw [assembleFrame, h1]
  refine (hcopy.bind fun m2 h2 => ?_).before hkeep1
  exact ((crcPut_failsOnlyUnwritten (by omega) hd).bind fun _ _ => .ok _).before (copyLoop_keepsListed hm1 h2)

/-- TX_NEXT_BIT reads only within the latched buffer (spec/10_state.md R44). -/
theorem txNextBit_failsOnlyUnwritten {bus : Bus} {m : Memory} {post : BitVec 16} {t : Tx} (h : TxInv t) :
    FailsOnlyUnwritten m (txNextBit bus m post t) := by
  obtain ⟨-, -, -, hfits, -⟩ := h
  unfold txNextBit
  split
  case h_4 =>
    cases hstep : txDataStep bus m post t with
    | ok p => exact .ok p
    | error f =>
      obtain ⟨hlen, hread⟩ := txDataStep_error hstep
      have hstop := busRead_failsOnlyUnwritten (bus := bus) (use := .txBit) (m := m)
        (show t.base.toNat + t.idx.toNat < 4294967296 by omega)
      rw [hread] at hstop
      cases hstop with
      | unwritten hnone => exact .unwritten hnone
  all_goals exact .ok _

/-- RxStore with its buffer below 2^ADDR_W. -/
theorem rxStore_failsOnlyUnwritten {m : Memory} {v : Byte} {s : State} (hb : s.rx.base.toNat + 276 ≤ 4294967296) :
    FailsOnlyUnwritten m (rxStore v s) := by
  by_cases hroom : s.rx.idx.toNat < 276
  · rw [rxStore_room hroom hb]
    exact .ok _
  · rw [rxStore_full (Nat.not_lt.1 hroom)]
    exact .ok _

/-- RX_NEXT_BIT writes only within the latched buffer (spec/10_state.md R45): in every mode RxStore is its one access. -/
theorem rxNextBit_failsOnlyUnwritten {m : Memory} {c : Bool} {s : State} (hb : s.rx.base.toNat + 276 ≤ 4294967296) :
    FailsOnlyUnwritten m (rxNextBit c s) := by
  have hstore : ∀ (v : Byte) (r : Rx), r.base = s.rx.base → FailsOnlyUnwritten m (rxStore v { s with rx := r }) :=
    fun v r hr => rxStore_failsOnlyUnwritten (hr ▸ hb)
  unfold rxNextBit
  split
  · exact .ok _
  · simp only [firstFlagStep]
    split
    · exact (hstore _ _ (by rfl)).bind fun _ _ => .ok _
    · exact .ok _
  · simp only [flagsStep]
    split
    · exact (hstore _ _ (by rfl)).bind fun _ _ => .ok _
    · exact .ok _
  · unfold rxDataStep
    split
    · simp only [rxCheckedStep]
      split
      · exact .ok _
      · refine (hstore _ _ (checkUnstuff_base c s.rx)).bind fun p _ => ?_
        split <;> exact .ok _
    · simp only [rxPlainStep]
      split
      · refine (hstore _ _ (by rfl)).bind fun p _ => ?_
        split <;> exact .ok _
      · exact .ok _

/-! ### The step -/

/-- An outcome that goes on, or stops at a byte `m` does not list: never a refusal, never an address out of range. -/
def StopsOnlyUnwritten (m : Memory) (o : Host.Outcome State Fault Refusal) : Prop :=
  (∃ t, o = .next t) ∨ ∃ a, o = .fault (.unwrittenRead a) ∧ m.read a = none

theorem stopsOnlyUnwritten_next (m : Memory) (t : State) : StopsOnlyUnwritten m (.next t) := .inl ⟨t, rfl⟩

theorem FailsOnlyUnwritten.finish {m : Memory} {r : Except Fault State} (h : FailsOnlyUnwritten m r) :
    StopsOnlyUnwritten m (finish r) := by
  cases h with
  | ok t => exact .inl ⟨t, rfl⟩
  | unwritten hnone => exact .inr ⟨_, rfl, hnone⟩

theorem StopsOnlyUnwritten.onNext {m : Memory} {o : Host.Outcome State Fault Refusal} (h : StopsOnlyUnwritten m o)
    (f : State → State) : StopsOnlyUnwritten m (onNext f o) := by
  obtain ⟨t, rfl⟩ | ⟨a, rfl, hnone⟩ := h
  · exact .inl ⟨f t, rfl⟩
  · exact .inr ⟨a, rfl, hnone⟩

theorem exec_stopsOnlyUnwritten {s : State} (h : MachineInv s) (i : Instr) : StopsOnlyUnwritten s.mem (exec i s) := by
  obtain ⟨htx, ⟨-, -, hrx, -⟩, hmem⟩ := h
  have next := stopsOnlyUnwritten_next s.mem
  cases i with
  | crcCompute =>
    simp only [exec, execCrcCompute]
    split
    · obtain ⟨h3, -, hfits⟩ := crcArgsOk_iff.1 ‹_›
      exact ((frameCrc_failsOnlyUnwritten h3 hfits).bind fun _ _ => .ok _).finish
    · exact next _
  | crcPut =>
    simp only [exec, execCrcPut]
    split
    · obtain ⟨h3, -, hfits⟩ := crcArgsOk_iff.1 ‹_›
      exact ((crcPut_failsOnlyUnwritten h3 hfits).bind fun _ _ => .ok _).finish
    · exact next _
  | uiPrepare =>
    simp only [exec, execUiPrepare]
    split
    · obtain ⟨hd, hsrc⟩ := uiArgsOk_iff.1 ‹_›
      exact ((assembleFrame_failsOnlyUnwritten hmem hd hsrc).bind fun _ _ => .ok _).finish
    · exact next _
  | txInit =>
    simp only [exec, execTxInit]
    split
    · exact next _
    · exact next _
  | txBit b => exact next _
  | txCheckStuffing => exact next _
  | txNextBit => exact ((txNextBit_failsOnlyUnwritten htx).bind fun _ _ => .ok _).finish
  | rxInit =>
    simp only [exec, execRxInit]
    split
    · exact next _
    · exact next _
  | rxBit c => exact next _
  | rxCheckStuffing c => exact next _
  | rxNextBit c => exact ((rxNextBit_failsOnlyUnwritten hrx).bind fun _ _ => .ok _).finish

theorem issue_stopsOnlyUnwritten {s : State} (h : MachineInv s) (w : Word) : StopsOnlyUnwritten s.mem (issue w s) := by
  unfold issue
  split
  · exact exec_stopsOnlyUnwritten h _
  · exact stopsOnlyUnwritten_next ..

theorem hostWrite_stopsOnlyUnwritten {s : State} (h : MachineInv s) (width : AccessWidth) (o : BitVec 8) (v : Word) :
    StopsOnlyUnwritten s.mem (hostWrite width o v s) := by
  unfold hostWrite
  split
  case h_1 =>
    split
    · rename_i r _
      cases r
      case cmd => exact (issue_stopsOnlyUnwritten h v).onNext endCommand
      all_goals exact stopsOnlyUnwritten_next ..
    · exact stopsOnlyUnwritten_next ..
  all_goals exact stopsOnlyUnwritten_next ..

theorem hostLoad_stopsOnlyUnwritten (a : Word) (s : State) : StopsOnlyUnwritten s.mem (hostLoad a s) := by
  unfold hostLoad
  split
  · exact stopsOnlyUnwritten_next ..
  · exact .inr ⟨_, rfl, ‹_›⟩

theorem serve_stopsOnlyUnwritten {s : State} (h : MachineInv s) (e : HostEvent) : StopsOnlyUnwritten s.mem (serve e s) := by
  cases e with
  | regWrite width o v => exact hostWrite_stopsOnlyUnwritten h width o v
  | memRead a => exact hostLoad_stopsOnlyUnwritten a s
  | cmdCutByReset v => exact (issue_stopsOnlyUnwritten h v).onNext (afterCut s)
  | regRead _ _ | memWrite _ _ | contend _ | reset => exact stopsOnlyUnwritten_next ..

/-- Settles O56: the invariant keeps every engine's buffer and R91's checks every operand's below 2^ADDR_W, so a read at a
byte nothing has written is all that is left to stop a step. -/
theorem stepsStopOnlyAtUnwrittenBytes : Obligations.StepsStopOnlyAtUnwrittenBytes := by
  intro s h
  cases hq : s.hostIn with
  | nil => exact .inl ⟨s, step_nil hq⟩
  | cons e rest =>
    rw [step_cons hq]
    exact serve_stopsOnlyUnwritten (s := { s with hostIn := rest }) h e

end Sys2Proof.Machine
end

section
/-!
PROOFS. The decoder and the encoder (spec/30_encoding.md R81, R82, R86, R94). With the reserved fields 0 a word is the command
word of its OP and B, and a command's own word is the command word of the OP and B that name it; so the decoder accepts
exactly the commands' words. The fields are read as numbers, where a word is the sum of its fields.
-/

namespace Sys2Proof

/-! ### The fields as numbers -/

theorem opField_toNat (w : Word) : (opField w).toNat = w.toNat % 16 := by
  simp [opField]

theorem rsv0Field_toNat (w : Word) : (rsv0Field w).toNat = w.toNat / 16 % 16 := by
  simp [rsv0Field, Nat.shiftRight_eq_div_pow]

theorem bField_toNat (w : Word) : (bField w).toNat = w.toNat / 256 % 2 :=
  Nat.toNat_testBit w.toNat 8

theorem rsv1Field_toNat (w : Word) : (rsv1Field w).toNat = w.toNat / 512 := by
  have hw := w.isLt
  simp only [rsv1Field, BitVec.extractLsb'_toNat, Nat.shiftRight_eq_div_pow]
  omega

theorem commandWord_toNat : ∀ (op : BitVec 4) (b : Bool), (commandWord op b).toNat = op.toNat + 256 * b.toNat := by
  decide

theorem rsv1Field_eq_zero_iff {w : Word} : rsv1Field w = 0 ↔ w.toNat / 512 = 0 := by
  rw [← rsv1Field_toNat, BitVec.toNat_eq]
  rfl

theorem rsv0Field_eq_zero_iff {w : Word} : rsv0Field w = 0 ↔ w.toNat / 16 % 16 = 0 := by
  rw [← rsv0Field_toNat, BitVec.toNat_eq]
  rfl

theorem bField_eq_true_iff {w : Word} : bField w = true ↔ w.toNat / 256 % 2 = 1 := by
  rw [← bField_toNat, Bool.toNat_eq_one]

/-! ### One word for each command -/

/-- With the reserved fields 0, OP and B are all of a word. -/
theorem eq_commandWord_of_reserved_zero {w : Word} (h1 : rsv1Field w = 0) (h0 : rsv0Field w = 0) :
    w = commandWord (opField w) (bField w) := by
  have hrsv1 := rsv1Field_eq_zero_iff.1 h1
  have hrsv0 := rsv0Field_eq_zero_iff.1 h0
  apply BitVec.eq_of_toNat_eq
  rw [commandWord_toNat, opField_toNat, bField_toNat]
  omega

/-- R82: the command that OP and B name has the word they make, where B is 1 only for a command that takes it. -/
theorem encode_of_commandOf : ∀ (op : BitVec 4) (b : Bool), (b = true → takesOperand op = true) →
    ∀ i ∈ commandOf op b, encode i = commandWord op b := by
  decide

/-- Settles O1: what a decoded word satisfies leaves it no other value than its command's word. -/
theorem decodeAcceptsExactlyTheEncodings : Obligations.DecodeAcceptsExactlyTheEncodings := by
  intro w i
  constructor
  · intro h
    obtain ⟨h1, h0, hi, hb⟩ := decode_ok h
    calc w = commandWord (opField w) (bField w) := eq_commandWord_of_reserved_zero h1 h0
      _ = encode i := (encode_of_commandOf _ _ hb i hi).symm
  · rintro rfl
    exact decode_encode i

/-- A word is no command's exactly when the decoder rejects it. -/
theorem decode_error_of_ne_encode {w : Word} (h : ∀ i, w ≠ encode i) : ∃ e, decode w = .error e := by
  cases hw : decode w with
  | ok i => exact absurd ((decodeAcceptsExactlyTheEncodings w i).1 hw) (h i)
  | error e => exact ⟨e, rfl⟩

/-! ### The legal words, listed -/

/-- The commands with every operand bit, in the order in which R82 lists their words. -/
def commands : List Instr :=
  [.crcCompute, .crcPut, .uiPrepare, .txInit, .txCheckStuffing, .txNextBit, .rxInit,
   .txBit false, .txBit true, .rxBit false, .rxBit true, .rxCheckStuffing false, .rxCheckStuffing true,
   .rxNextBit false, .rxNextBit true]

theorem mem_commands (i : Instr) : i ∈ commands := by
  cases i with
  | crcCompute | crcPut | uiPrepare | txInit | txCheckStuffing | txNextBit | rxInit => decide
  | txBit b | rxBit b | rxCheckStuffing b | rxNextBit b => cases b <;> decide

theorem exists_eq_encode_iff {w : Word} : (∃ i, w = encode i) ↔ w ∈ commands.map encode := by
  simp [mem_commands, eq_comm]

/-- Settles O2: the words of the commands are the 15 of R82, in its order. -/
theorem legalWordsAreTheFifteenListed : Obligations.LegalWordsAreTheFifteenListed := by
  intro w
  calc (∃ i, decode w = .ok i) ↔ ∃ i, w = encode i := exists_congr (decodeAcceptsExactlyTheEncodings w)
    _ ↔ w ∈ commands.map encode := exists_eq_encode_iff

/-! ### The decoder's tests -/

theorem commandOf_eq_none_iff : ∀ {op : BitVec 4} {b : Bool},
    commandOf op b = none ↔ op.toNat ∈ [0x0, 0xC, 0xD, 0xE, 0xF] := by
  decide

theorem takesOperand_iff : ∀ {op : BitVec 4}, takesOperand op = true ↔ op.toNat ∈ [0x5, 0x9, 0xA, 0xB] := by
  decide

theorem decode_reservedBits {w : Word} (h : rsv1Field w ≠ 0 ∨ rsv0Field w ≠ 0) : decode w = .error .reservedBits := by
  simp only [decode, Bool.or_eq_true, bne_iff_ne, if_pos h]

theorem decode_reservedOpcode {w : Word} (h1 : rsv1Field w = 0) (h0 : rsv0Field w = 0)
    (hop : commandOf (opField w) (bField w) = none) : decode w = .error .reservedOpcode := by
  simp [decode, h1, h0, hop]

/-- R86's third test, on a word that names a command. -/
theorem decode_of_commandOf {w : Word} {i : Instr} (h1 : rsv1Field w = 0) (h0 : rsv0Field w = 0)
    (hi : commandOf (opField w) (bField w) = some i) :
    decode w = if bField w && !takesOperand (opField w) then .error .strayOperand else .ok i := by
  simp [decode, h1, h0, hi]

theorem decode_strayOperand {w : Word} {i : Instr} (h1 : rsv1Field w = 0) (h0 : rsv0Field w = 0)
    (hi : commandOf (opField w) (bField w) = some i) (hb : bField w = true) (hop : ¬takesOperand (opField w) = true) :
    decode w = .error .strayOperand := by
  rw [decode_of_commandOf h1 h0 hi]
  simp [hb, hop]

theorem decode_accepts {w : Word} {i : Instr} (h1 : rsv1Field w = 0) (h0 : rsv0Field w = 0)
    (hi : commandOf (opField w) (bField w) = some i) (hb : bField w = true → takesOperand (opField w) = true) :
    decode w = .ok i := by
  rw [decode_of_commandOf h1 h0 hi]
  simpa using hb

/-- A word whose OP is not reserved names a command. -/
theorem exists_commandOf {w : Word} (h : w.toNat % 16 ∉ [0x0, 0xC, 0xD, 0xE, 0xF]) :
    ∃ i, commandOf (opField w) (bField w) = some i := by
  rw [← opField_toNat, ← commandOf_eq_none_iff (b := bField w)] at h
  exact Option.ne_none_iff_exists'.1 h

/-- Settles O3: each test of R86 at the field it reads. -/
theorem decodeTestsInRuleOrder : Obligations.DecodeTestsInRuleOrder := by
  intro w n op rsv0 b rsv1
  have hrsv1 : rsv1Field w = 0 ↔ rsv1 = 0 := rsv1Field_eq_zero_iff
  have hrsv0 : rsv0Field w = 0 ↔ rsv0 = 0 := rsv0Field_eq_zero_iff
  have hb : bField w = true ↔ b = 1 := bField_eq_true_iff
  have hop : (opField w).toNat = op := opField_toNat w
  have htakes : takesOperand (opField w) = true ↔ op ∈ [0x5, 0x9, 0xA, 0xB] := by rw [takesOperand_iff, hop]
  refine ⟨fun h => ?_, fun h1 h0 hres => ?_, fun h1 h0 hdef hb1 hstray => ?_, fun h1 h0 hdef hok => ?_⟩
  · exact decode_reservedBits (h.imp (mt hrsv1.1) (mt hrsv0.1))
  · exact decode_reservedOpcode (hrsv1.2 h1) (hrsv0.2 h0) (commandOf_eq_none_iff.2 (hop ▸ hres))
  · obtain ⟨i, hi⟩ := exists_commandOf hdef
    exact decode_strayOperand (hrsv1.2 h1) (hrsv0.2 h0) hi (hb.2 hb1) (mt htakes.1 hstray)
  · obtain ⟨i, hi⟩ := exists_commandOf hdef
    exact ⟨i, decode_accepts (hrsv1.2 h1) (hrsv0.2 h0) hi fun h => htakes.2 (hok (hb.1 h))⟩

/-! ### The opcode table -/

/-- A word of a row is the row's pattern with the bits outside the mask as they stand in the word. -/
theorem OpcodeRow.eq_of_holds {row : OpcodeRow} {w : Word} (h : row.holds w = true) :
    w = row.pattern ||| (w &&& ~~~row.mask) := by
  have hp : w &&& row.mask = row.pattern := by simpa [OpcodeRow.holds] using h
  calc w = w &&& (row.mask ||| ~~~row.mask) := by rw [BitVec.or_not_self, BitVec.and_allOnes]
    _ = row.pattern ||| (w &&& ~~~row.mask) := by rw [BitVec.and_or_distrib_left, hp]

/-- A mask leaves out no bit or bit 8 alone. -/
theorem not_mask_of_mem_opcodeTable : ∀ row ∈ opcodeTable, ~~~row.mask = 0 ∨ ~~~row.mask = BitVec.twoPow 32 8 := by
  decide

/-- A row's pattern is a command's word, and it still is with the bits outside the mask set. -/
theorem pattern_of_mem_opcodeTable : ∀ row ∈ opcodeTable,
    row.pattern ∈ commands.map encode ∧ row.pattern ||| ~~~row.mask ∈ commands.map encode := by
  decide

theorem holds_encode_iff {row : OpcodeRow} (hrow : row ∈ opcodeTable) (i : Instr) :
    row.holds (encode i) = true ↔ i.mnemonic = row.mnemonic := by
  have h : ∀ row ∈ opcodeTable, ∀ i ∈ commands, row.holds (encode i) = true ↔ i.mnemonic = row.mnemonic := by decide
  exact h row hrow i (mem_commands i)

/-- A word of a row is a command's: it has B clear or, where the row does not fix B, set. -/
theorem exists_eq_encode_of_holds {row : OpcodeRow} {w : Word} (hrow : row ∈ opcodeTable) (h : row.holds w = true) :
    ∃ i, w = encode i := by
  obtain ⟨hclear, hset⟩ := pattern_of_mem_opcodeTable row hrow
  have hopen : w &&& ~~~row.mask = 0 ∨ w &&& ~~~row.mask = ~~~row.mask := by
    rcases not_mask_of_mem_opcodeTable row hrow with hm | hm
    · exact .inl (by simp [hm])
    · rw [hm, BitVec.and_twoPow]
      exact (ite_eq_or_eq ..).symm
  rw [exists_eq_encode_iff, OpcodeRow.eq_of_holds h]
  rcases hopen with hb | hb
  · simpa [hb] using hclear
  · rwa [hb]

/-- Settles O4: a row's words are commands' words, and of those it has the ones with its mnemonic. -/
theorem decodeAgreesWithOpcodeTable : Obligations.DecodeAgreesWithOpcodeTable := by
  intro w row hrow
  constructor
  · intro h
    obtain ⟨i, rfl⟩ := exists_eq_encode_of_holds hrow h
    exact ⟨i, decode_encode i, (holds_encode_iff hrow i).1 h⟩
  · rintro ⟨i, hi, hname⟩
    rw [(decodeAcceptsExactlyTheEncodings w i).1 hi]
    exact (holds_encode_iff hrow i).2 hname

/-- Settles O5: each word written out is its command's. -/
theorem writtenWordsDecode : Obligations.WrittenWordsDecode :=
  ⟨decode_encode .crcCompute, decode_encode .crcPut, decode_encode .uiPrepare, decode_encode .txInit,
    decode_encode (.txBit true), decode_encode .txNextBit, decode_encode .rxInit, decode_encode (.rxBit false),
    decode_encode (.rxCheckStuffing true), decode_encode (.rxNextBit true)⟩

end Sys2Proof
end

section
/-!
PROOFS. The issue of a command word (spec/30_encoding.md R85 to R87) and the argument checks (R91).
-/

namespace Sys2Proof.Machine

/-! ### The issue of a word -/

theorem issue_of_decode {w : Word} {i : Instr} (h : decode w = .ok i) (s : State) : issue w s = exec i s := by
  simp [issue, h]

theorem issue_illegal {w : Word} (h : ∀ i, w ≠ encode i) (s : State) : issue w s = .next (raiseError .illCmd s) := by
  obtain ⟨e, he⟩ := decode_error_of_ne_encode h
  simp [issue, he]

/-- R223: a word write to CMD issues its word, and the command ends with it. -/
theorem hostWrite_cmd (w : Word) (s : State) : hostWrite .word 0x00 w s = onNext endCommand (issue w s) := rfl

theorem step_cmd {s : State} {w : Word} {rest : List HostEvent} (h : s.hostIn = .regWrite .word 0x00 w :: rest) :
    step s = onNext endCommand (issue w { s with hostIn := rest }) := step_cons h

/-- Settles O6: the step ends the command that the word's issue runs. -/
theorem stepRunsTheDecodedCommand : Obligations.StepRunsTheDecodedCommand := by
  intro s w rest i hq hi
  rw [step_cmd hq, issue_of_decode hi]
  exact ⟨fun t ht => onNext_eq_next.2 ⟨t, ht, rfl⟩, fun _ => onNext_eq_fault.2, fun _ => onNext_eq_refused.2⟩

/-- Settles O8: the write and the step that serves it end the illegal word's issue. -/
theorem illegalWordOnlySetsIllCmd : Obligations.IllegalWordOnlySetsIllCmd := by
  intro s w rest h status bus
  refine ⟨issue_illegal h s, ?_, fun hq => ?_⟩
  · rw [hostWrite_cmd, issue_illegal h]
    rfl
  · rw [step_cmd hq, issue_illegal h]
    rfl

/-! ### Arguments out of range -/

theorem exec_crcCompute_argErr {s : State} (h : ¬crcArgsOk s = true) :
    exec .crcCompute s = .next (raiseError .argErr s) := if_neg h

theorem exec_crcPut_argErr {s : State} (h : ¬crcArgsOk s = true) :
    exec .crcPut s = .next (raiseError .argErr s) := if_neg h

theorem exec_uiPrepare_argErr {s : State} (h : ¬uiArgsOk s = true) :
    exec .uiPrepare s = .next (raiseError .argErr s) := if_neg h

theorem exec_txInit_argErr {s : State} (h : ¬txInitArgsOk s = true) :
    exec .txInit s = .next (raiseError .argErr s) := if_neg h

theorem exec_rxInit_argErr {s : State} (h : ¬rxInitArgsOk s = true) :
    exec .rxInit s = .next (raiseError .argErr s) := if_neg h

/-- Settles O20: past a bound of R91 the command's check fails. -/
theorem argumentErrorsChangeOnlyArgErr : Obligations.ArgumentErrorsChangeOnlyArgErr := by
  intro s raised a0 a1 n
  refine ⟨fun hout => ?_, fun hout => ?_, fun hout => ?_, fun hout => ?_⟩
  · have hfail : ¬crcArgsOk s = true := by
      rw [crcArgsOk_iff]
      omega
    exact ⟨exec_crcCompute_argErr hfail, exec_crcPut_argErr hfail⟩
  · apply exec_uiPrepare_argErr
    rw [uiArgsOk_iff]
    omega
  · apply exec_txInit_argErr
    rw [txInitArgsOk_iff]
    omega
  · apply exec_rxInit_argErr
    rw [rxInitArgsOk_iff]
    omega

end Sys2Proof.Machine
end

section
/-!
PROOFS. The CRC engine (spec/40_crc.md R100 to R105): the register as a number, the bytes a pass depends on, and the two
commands with arguments in range.
-/

namespace Sys2Proof.Machine

/-! ### The register as a number -/

theorem crcBit_toNat (crc : BitVec 16) (b : Bool) :
    (crcBit crc b).toNat =
      if (crc.toNat % 2 + b.toNat) % 2 = 1 then (crc.toNat / 2) ^^^ 0x8408 else crc.toNat / 2 := by
  have hlow : crc.toNat % 2 = (crc.getLsbD 0).toNat := by
    rw [BitVec.getLsbD, Nat.toNat_testBit, pow_zero, Nat.div_one]
  have hshift : (crc >>> 1).toNat = crc.toNat / 2 := by
    rw [BitVec.toNat_ushiftRight, Nat.shiftRight_eq_div_pow, pow_one]
  rw [crcBit, hlow]
  cases crc.getLsbD 0 <;> cases b <;> simp [hshift]

/-- R100's test at bit k of the byte. -/
theorem crcBit_getLsbD_toNat (crc : BitVec 16) (x : Byte) (k : Nat) :
    (crcBit crc (x.getLsbD k)).toNat =
      if (crc.toNat % 2 + x.toNat / 2 ^ k) % 2 = 1 then (crc.toNat / 2) ^^^ 0x8408 else crc.toNat / 2 := by
  rw [crcBit_toNat, BitVec.getLsbD, Nat.toNat_testBit, Nat.add_mod_mod]

theorem byteBits_eq_map_range (x : Byte) : byteBits x = (List.range 8).map x.getLsbD := rfl

/-- Settles O16: on numbers each of the loop's eight rounds is R100's. -/
theorem crcByteFollowsTheLoop : Obligations.CrcByteFollowsTheLoop := by
  intro crc x
  rw [crcByte, byteBits_eq_map_range, List.foldl_map]
  exact (List.foldl_hom BitVec.toNat fun c k => (crcBit_getLsbD_toNat c x k).symm).symm

/-- Settles O21: the rules run bit by bit on the nine bytes; `decide` would recurse too deep in the nested register. -/
theorem crcCheckValue : Obligations.CrcCheckValue := by
  simp [Obligations.CrcCheckValue, crcOfBytes, crcByte, byteBits, crcBit]

/-! ### What a pass depends on -/

/-- Two passes of one length agree when they read the same values in the same order, wherever they read them. -/
theorem crcLoop_congr_reads {bus bus' : Bus} {m m' : Memory} : ∀ {n a a' : Nat} {c : BitVec 16},
    (∀ k < n, busRead bus .crc m (a + k) = busRead bus' .crc m' (a' + k)) →
    crcLoop bus m n a c = crcLoop bus' m' n a' c
  | 0, _, _, _, _ => rfl
  | n + 1, a, a', c, h => by
    have hfirst : busRead bus .crc m a = busRead bus' .crc m' a' := h 0 (Nat.succ_pos n)
    have hshift : ∀ b k, b + 1 + k = b + (k + 1) := by omega
    have hrest : ∀ x, crcLoop bus m n (a + 1) (crcByte c x) = crcLoop bus' m' n (a' + 1) (crcByte c x) := fun x =>
      crcLoop_congr_reads fun k hk => by
        rw [hshift, hshift]
        exact h (k + 1) (Nat.succ_lt_succ hk)
    simp only [crcLoop, hfirst, hrest]

theorem frameCrc_congr_reads {bus bus' : Bus} {m m' : Memory} {a a' len : Nat}
    (h : ∀ k < len - 4, busRead bus .crc m (a + 1 + k) = busRead bus' .crc m' (a' + 1 + k)) :
    frameCrc bus m a len = frameCrc bus' m' a' len := by
  simp only [frameCrc, crcLoop_congr_reads h]

/-! ### The FCS stores -/

theorem extractLsb'_low_byte (crc : BitVec 16) : crc.extractLsb' 0 8 = BitVec.ofNat 8 (crc.toNat % 256) := by
  apply BitVec.eq_of_toNat_eq
  simp

theorem extractLsb'_high_byte (crc : BitVec 16) : crc.extractLsb' 8 8 = BitVec.ofNat 8 (crc.toNat / 256) := by
  apply BitVec.eq_of_toNat_eq
  simp [Nat.shiftRight_eq_div_pow]

/-- R102: the low byte at L-3, the high byte at L-2, every other byte as it was. -/
theorem crcPut_reads {bus : Bus} {m m' : Memory} {a len : Nat} {crc : BitVec 16} (hm : m.wf = true) (hl : 3 ≤ len)
    (h : crcPut bus m a len = .ok (m', crc)) :
    m'.read (a + len - 3) = some (BitVec.ofNat 8 (crc.toNat % 256)) ∧
      m'.read (a + len - 2) = some (BitVec.ofNat 8 (crc.toNat / 256)) ∧
      ∀ b, b ≠ a + len - 3 → b ≠ a + len - 2 → m'.read b = m.read b := by
  obtain ⟨-, hlow, -, rfl⟩ := crcPut_ok h
  have hm1 := Memory.wf_write (v := crc.extractLsb' 0 8) hlow hm
  refine ⟨?_, ?_, fun b hb3 hb2 => ?_⟩
  · rw [Memory.read_write_ne hm1 (by omega), Memory.read_write_same, extractLsb'_low_byte]
  · rw [Memory.read_write_same, extractLsb'_high_byte]
  · rw [Memory.read_write_ne hm1 hb2, Memory.read_write_ne hm hb3]

/-- The stores fall past the covered bytes, so the CRC of the buffer stays what it was. -/
theorem frameCrc_crcPut {bus : Bus} {m m' : Memory} {a len : Nat} {crc : BitVec 16} (hm : m.wf = true) (hl : 3 ≤ len)
    (h : crcPut bus m a len = .ok (m', crc)) : frameCrc bus m' a len = .ok crc := by
  obtain ⟨hcrc, -, -, -⟩ := crcPut_ok h
  obtain ⟨-, -, hkept⟩ := crcPut_reads hm hl h
  rw [← hcrc]
  exact frameCrc_congr fun b _ hb => hkept b (by omega) (by omega)

/-! ### The commands with arguments in range -/

theorem exec_crcCompute_eq_next_iff {s t : State} (ha : crcArgsOk s = true) :
    exec .crcCompute s = .next t ↔
      ∃ crc, frameCrc s.bus s.mem s.arg0.toNat s.arg1.toNat = .ok crc ∧ t = setResCore (crc.setWidth 32) s := by
  constructor
  · intro h
    rcases exec_crcCompute_next h with ⟨hfail, -⟩ | ⟨-, hcrc⟩
    · exact absurd (ha.symm.trans hfail) nofun
    · exact hcrc
  · rintro ⟨crc, hcrc, rfl⟩
    simp only [exec, execCrcCompute, if_pos ha, bind, Except.bind, hcrc, finish]

theorem exec_crcPut_eq_next_iff {s t : State} (ha : crcArgsOk s = true) :
    exec .crcPut s = .next t ↔
      ∃ m crc, crcPut s.bus s.mem s.arg0.toNat s.arg1.toNat = .ok (m, crc) ∧
        t = setResCore (crc.setWidth 32) { s with mem := m } := by
  constructor
  · intro h
    rcases exec_crcPut_next h with ⟨hfail, -⟩ | ⟨-, hput⟩
    · exact absurd (ha.symm.trans hfail) nofun
    · exact hput
  · rintro ⟨m, crc, hput, rfl⟩
    simp only [exec, execCrcPut, if_pos ha, bind, Except.bind, hput, finish]

/-- Settles O17: the pass over readable bytes completes with their CRC. -/
theorem crcComputeResult : Obligations.CrcComputeResult := by
  intro s bytes h3 h276 hfits hlen hread
  have hargs : crcArgsOk s = true := crcArgsOk_iff.2 ⟨h3, h276, hfits⟩
  exact (exec_crcCompute_eq_next_iff hargs).2 ⟨_, frameCrc_bytes hlen hread, rfl⟩

/-- Settles O18: the pass completes and both stores lie below 2^ADDR_W. -/
theorem crcPutResult : Obligations.CrcPutResult := by
  intro s bytes hm h3 h276 hfits hlen hread
  have hargs : crcArgsOk s = true := crcArgsOk_iff.2 ⟨h3, h276, hfits⟩
  have hput := crcPut_eq h3 hfits (frameCrc_bytes hlen hread)
  exact ⟨_, (exec_crcPut_eq_next_iff hargs).2 ⟨_, _, hput, rfl⟩, crcPut_reads hm h3 hput⟩

/-- Settles O22: equal readings make the two passes one. -/
theorem crcDependsOnlyOnCoveredBytes : Obligations.CrcDependsOnlyOnCoveredBytes := by
  intro s s' t t' harg1 hreads h3 h276 hfits hfits' ht ht'
  rw [exec_crcCompute_eq_next_iff (crcArgsOk_iff.2 ⟨h3, h276, hfits⟩)] at ht
  rw [exec_crcCompute_eq_next_iff (crcArgsOk_iff.2 ⟨harg1 ▸ h3, harg1 ▸ h276, hfits'⟩)] at ht'
  obtain ⟨crc, hcrc, rfl⟩ := ht
  obtain ⟨crc', hcrc', rfl⟩ := ht'
  rw [frameCrc_congr_reads hreads, harg1, hcrc'] at hcrc
  obtain rfl := Except.ok.inj hcrc
  rfl

/-- Settles O23: CRC_PUT keeps the operands and the CRC of the buffer. -/
theorem crcComputeAfterCrcPutAgrees : Obligations.CrcComputeAfterCrcPutAgrees := by
  intro s t hm h3 h276 hfits ht
  have hargs : crcArgsOk s = true := crcArgsOk_iff.2 ⟨h3, h276, hfits⟩
  obtain ⟨m, crc, hput, rfl⟩ := (exec_crcPut_eq_next_iff hargs).1 ht
  have hkept : crcArgsOk (setResCore (crc.setWidth 32) { s with mem := m }) = true := hargs
  exact (exec_crcCompute_eq_next_iff hkept).2 ⟨crc, frameCrc_crcPut hm h3 hput, rfl⟩

end Sys2Proof.Machine
end

section
/-!
PROOFS. The frame assembler with arguments in range (spec/41_frame_assembler.md R120 to R123): what each byte reads as
while the frame is built, the info copy whatever it overlaps (R122), and the FCS of the frame it leaves.
-/

namespace Sys2Proof.Machine

/-! ### A frame under construction -/

/-- What address `b` reads as after R121's envelope and the first `i` of `n` info bytes, over memory `m`. -/
def frameByte (m : Memory) (d n : Nat) (info : Nat → Byte) (i b : Nat) : Option Byte :=
  if d + 17 ≤ b ∧ b < d + 17 + i then some (info (b - (d + 17)))
  else if b = d + (n + 20) - 1 then some Config.flag
  else if d ≤ b ∧ b < d + 17 then envelopeBytes[b - d]?
  else m.read b

section
variable {m : Memory} {d n i : Nat} {info : Nat → Byte}

theorem frameByte_info {j : Nat} (hj : j < i) : frameByte m d n info i (d + 17 + j) = some (info j) := by
  rw [frameByte, if_pos (by omega), Nat.add_sub_cancel_left]

theorem frameByte_closing (hi : i ≤ n) : frameByte m d n info i (d + (n + 20) - 1) = some 0x7E := by
  rw [frameByte, if_neg (by omega), if_pos rfl]

theorem frameByte_envelope {k : Nat} (hk : k < 17) : frameByte m d n info i (d + k) = envelopeBytes[k]? := by
  rw [frameByte, if_neg (by omega), if_neg (by omega), if_pos (by omega), Nat.add_sub_cancel_left]

theorem frameByte_header {k : Nat} (hk : k < 14) : frameByte m d n info i (d + 1 + k) = Config.hdrBytes[k]? := by
  rw [Nat.add_assoc, frameByte_envelope (by omega), getElem?_envelopeBytes (by omega), if_neg (by omega),
    if_neg (by omega), if_neg (by omega), Nat.add_sub_cancel_left]

theorem frameByte_other {b : Nat} (hfront : ¬(d ≤ b ∧ b < d + 17 + i)) (hlast : b ≠ d + (n + 20) - 1) :
    frameByte m d n info i b = m.read b := by
  rw [frameByte, if_neg (by omega), if_neg hlast, if_neg (by omega)]

/-- Every byte the CRC covers, indices 1 to L-4, has a value in the finished frame. -/
theorem frameByte_covered {k : Nat} (hk : k < n + 16) : ∃ x, frameByte m d n info n (d + 1 + k) = some x := by
  by_cases henv : k < 16
  · rw [Nat.add_assoc, frameByte_envelope (by omega)]
    exact ⟨_, List.getElem?_eq_getElem (by rw [length_envelopeBytes]; omega)⟩
  · obtain ⟨j, rfl⟩ := Nat.exists_eq_add_of_le (Nat.le_of_not_lt henv)
    exact ⟨info j, by rw [← Nat.add_assoc]; exact frameByte_info (by omega)⟩

/-- The frame under construction holds `x` at `a` where R122's cases for an info byte read there give `x`. -/
theorem frameByte_eq_some {a : Nat} {x : Byte} (hi : i ≤ n)
    (h : if d + 17 ≤ a ∧ a < d + 17 + i then x = info (a - (d + 17))
      else if a = d ∨ a = d + (n + 20) - 1 then x = 0x7E
      else if d + 1 ≤ a ∧ a ≤ d + 14 then some x = Config.hdrBytes[a - (d + 1)]?
      else if a = d + 15 then x = 0x03
      else if a = d + 16 then x = 0xF0
      else m.read a = some x) : frameByte m d n info i a = some x := by
  split at h
  next hcopied =>
    obtain ⟨j, rfl⟩ := Nat.exists_eq_add_of_le hcopied.1
    rw [frameByte_info (by omega), h, Nat.add_sub_cancel_left]
  split at h
  next hflag =>
    rcases hflag with rfl | rfl
    · exact h ▸ frameByte_envelope (k := 0) (by omega)
    · exact h ▸ frameByte_closing hi
  split at h
  next hheader =>
    obtain ⟨k, rfl⟩ := Nat.exists_eq_add_of_le hheader.1
    rw [frameByte_header (by omega), h, Nat.add_sub_cancel_left]
  split at h
  next hctl => exact hctl ▸ h ▸ frameByte_envelope (k := 15) (by omega)
  split at h
  next hpid => exact hpid ▸ h ▸ frameByte_envelope (k := 16) (by omega)
  rw [frameByte_other (by omega) (by omega), h]

end

/-! ### The info copy -/

/-- `m'` is `m` with the first `i` info bytes at rising addresses from `dst`. -/
def Copied (m m' : Memory) (dst : Nat) (info : Nat → Byte) (i : Nat) : Prop :=
  ∀ b, m'.read b = if dst ≤ b ∧ b < dst + i then some (info (b - dst)) else m.read b

/-- A byte written first and `i` more after it are `i + 1` bytes. -/
theorem Copied.cons {m m' : Memory} {dst i : Nat} {info : Nat → Byte} (hm : m.wf = true)
    (h : Copied (m.write dst (info 0)) m' (dst + 1) (fun j => info (j + 1)) i) : Copied m m' dst info (i + 1) := by
  intro b
  rw [h b, Memory.read_write hm]
  rcases Nat.lt_trichotomy b dst with hlt | rfl | hgt
  · rw [if_neg (by omega), if_neg (by omega), if_neg (by omega)]
  · rw [if_neg (by omega), if_pos rfl, if_pos (by omega), Nat.sub_self]
  · have hidx : b - (dst + 1) + 1 = b - dst := by omega
    have hrange : dst + 1 ≤ b ∧ b < dst + 1 + i ↔ dst ≤ b ∧ b < dst + (i + 1) := by omega
    simp only [hidx, hrange, if_neg (show b ≠ dst by omega)]

/-- The info copy, each byte read as the copies before it leave memory (R122). -/
theorem copyLoop_copied {bus : Bus} : ∀ {n src dst : Nat} {m : Memory} {info : Nat → Byte}, m.wf = true →
    dst + n ≤ 4294967296 →
    (∀ i < n, ∀ m', Copied m m' dst info i → busRead bus .copy m' (src + i) = .ok (info i)) →
    ∃ m', copyLoop bus n src dst m = .ok m' ∧ m'.wf = true ∧ Copied m m' dst info n
  | 0, _, _, m, _, hm, _, _ => ⟨m, rfl, hm, fun b => (if_neg (by omega)).symm⟩
  | n + 1, src, dst, m, info, hm, hdst, hread => by
    have ha : dst < 4294967296 := by omega
    have hfirst : busRead bus .copy m src = .ok (info 0) :=
      hread 0 (Nat.succ_pos n) m fun b => (if_neg (by omega)).symm
    have hshift : ∀ i, src + 1 + i = src + (i + 1) := by omega
    obtain ⟨m', hrun, hm', hcopied⟩ := copyLoop_copied (bus := bus) (n := n) (src := src + 1) (dst := dst + 1)
      (info := fun j => info (j + 1)) (Memory.wf_write (v := info 0) ha hm) (by omega)
      fun i hi m' hc => hshift i ▸ hread (i + 1) (Nat.succ_lt_succ hi) m' (hc.cons hm)
    refine ⟨m', ?_, hm', hcopied.cons hm⟩
    simp only [copyLoop, bind, Except.bind, hfirst, busWrite_lt ha, hrun]

/-! ### The CRC pass over readable bytes -/

theorem crcLoop_completes {bus : Bus} {m : Memory} : ∀ {n a : Nat} {c : BitVec 16},
    (∀ k < n, ∃ x, busRead bus .crc m (a + k) = .ok x) → ∃ c', crcLoop bus m n a c = .ok c'
  | 0, _, c, _ => ⟨c, rfl⟩
  | n + 1, a, c, h => by
    obtain ⟨x, hx⟩ : ∃ x, busRead bus .crc m a = .ok x := h 0 (Nat.succ_pos n)
    have hshift : ∀ k, a + 1 + k = a + (k + 1) := by omega
    obtain ⟨c', hc⟩ := crcLoop_completes (c := crcByte c x) fun k hk => hshift k ▸ h (k + 1) (Nat.succ_lt_succ hk)
    exact ⟨c', by simp only [crcLoop, bind, Except.bind, hx, hc]⟩

theorem frameCrc_completes {bus : Bus} {m : Memory} {a len : Nat}
    (h : ∀ k < len - 4, ∃ x, busRead bus .crc m (a + 1 + k) = .ok x) : ∃ crc, frameCrc bus m a len = .ok crc := by
  obtain ⟨c, hc⟩ := crcLoop_completes (c := Config.crcInit) h
  exact ⟨c ^^^ Config.crcXorOut, by simp only [frameCrc, bind, Except.bind, hc]⟩

/-! ### The FCS of a frame in memory -/

/-- The frame of length `len` at `a` holds its own CRC at L-3 (low byte) and L-2 (high byte). -/
def HoldsFcs (bus : Bus) (m : Memory) (a len : Nat) : Prop :=
  ∃ crc : BitVec 16, frameCrc bus m a len = .ok crc ∧
    m.read (a + len - 3) = some (BitVec.ofNat 8 (crc.toNat % 256)) ∧
    m.read (a + len - 2) = some (BitVec.ofNat 8 (crc.toNat / 256))

/-- Where the frame holds its FCS, CRC_COMPUTE answers it (R104's check of the frame). -/
theorem exec_crcCompute_fcsMatches {s : State} (ha : crcArgsOk s = true)
    (h : HoldsFcs s.bus s.mem s.arg0.toNat s.arg1.toNat) :
    ∃ u, exec .crcCompute s = .next u ∧ fcsMatches u s.arg0.toNat s.arg1.toNat := by
  obtain ⟨crc, hcrc, hlow, hhigh⟩ := h
  refine ⟨_, (exec_crcCompute_eq_next_iff ha).2 ⟨crc, hcrc, rfl⟩, _, _, hlow, hhigh, ?_⟩
  have hlt := crc.isLt
  simp only [setResCore_resCore, BitVec.toNat_setWidth, BitVec.toNat_ofNat]
  omega

/-! ### The whole frame -/

/-- The frame assembly is the envelope, the info copy and the FCS stores. -/
theorem assembleFrame_eq_ok_iff {bus : Bus} {m m' : Memory} {d src n : Nat} :
    assembleFrame bus m d src n = .ok m' ↔ ∃ m1 m2 crc, writeEnvelope m d (n + 20) = .ok m1 ∧
      copyLoop bus n src (d + 17) m1 = .ok m2 ∧ crcPut bus m2 d (n + 20) = .ok (m', crc) := by
  constructor
  · intro h
    simp only [assembleFrame, bind, Except.bind] at h
    split at h
    · cases h
    · rename_i m1 h1
      split at h
      · cases h
      · rename_i m2 h2
        split at h
        · cases h
        · rename_i p h3
          cases h
          exact ⟨m1, m2, p.2, h1, h2, h3⟩
  · rintro ⟨m1, m2, crc, h1, h2, h3⟩
    simp only [assembleFrame, bind, Except.bind, h1, h2, h3]

/-- R123: the CRC of the frame the assembly leaves is the FCS it holds. -/
theorem assembleFrame_holdsFcs {bus : Bus} {m m' : Memory} {d src n : Nat} (hm : m.wf = true)
    (h : assembleFrame bus m d src n = .ok m') : HoldsFcs bus m' d (n + 20) := by
  obtain ⟨m1, m2, crc, h1, h2, hput⟩ := assembleFrame_eq_ok_iff.1 h
  obtain ⟨hm2, -, -⟩ := copyLoop_ok (writeEnvelope_wf hm h1) h2
  obtain ⟨hlow, hhigh, -⟩ := crcPut_reads hm2 (by omega) hput
  exact ⟨crc, frameCrc_crcPut hm2 (by omega) hput, hlow, hhigh⟩

/-- The frame assembly goes through where each info byte is readable as memory stands when it is read, and every byte
but the two of the FCS then reads as the finished frame's. -/
theorem assembleFrame_reads {bus : Bus} {m : Memory} {d src n : Nat} {info : Nat → Byte} (hm : m.wf = true)
    (hd : d + (n + 20) ≤ 4294967296)
    (hinfo : ∀ i < n, ∀ m' : Memory, (∀ b, m'.read b = frameByte m d n info i b) →
      busRead bus .copy m' (src + i) = .ok (info i)) :
    ∃ m', assembleFrame bus m d src n = .ok m' ∧
      ∀ b, b ≠ d + (n + 20) - 3 → b ≠ d + (n + 20) - 2 → m'.read b = frameByte m d n info n b := by
  obtain ⟨m1, h1, hm1, hread1⟩ := writeEnvelope_lt (len := n + 20) hm (by omega) hd
  have hframe : ∀ {i m'}, Copied m1 m' (d + 17) info i → ∀ b, m'.read b = frameByte m d n info i b := by
    intro i m' hc b
    rw [hc b, hread1 b, frameByte]
  obtain ⟨m2, h2, hm2, hcopied⟩ := copyLoop_copied (bus := bus) (src := src) (info := info) hm1
    (show d + 17 + n ≤ 4294967296 by omega) fun i hi m' hc => hinfo i hi m' (hframe hc)
  obtain ⟨crc, hcrc⟩ := frameCrc_completes (bus := bus) (m := m2) (a := d) (len := n + 20) fun k hk =>
    busRead_completes_iff.2 ⟨by omega, .inr (hframe hcopied _ ▸ frameByte_covered (by omega))⟩
  have hput := crcPut_eq (by omega) hd hcrc
  obtain ⟨-, -, hkept⟩ := crcPut_reads hm2 (by omega) hput
  exact ⟨_, assembleFrame_eq_ok_iff.2 ⟨m1, m2, crc, h1, h2, hput⟩, fun b hlow hhigh =>
    (hkept b hlow hhigh).trans (hframe hcopied b)⟩

/-! ### UI_PREPARE -/

theorem exec_uiPrepare_eq_next_iff {s t : State} (ha : uiArgsOk s = true) :
    exec .uiPrepare s = .next t ↔
      ∃ m, assembleFrame s.bus s.mem s.arg0.toNat s.arg1.toNat (infoLength s) = .ok m ∧
        t = setResCore (BitVec.ofNat 32 (frameLength s)) { s with mem := m } := by
  constructor
  · intro h
    rcases exec_uiPrepare_next h with ⟨hfail, -⟩ | ⟨-, hframe⟩
    · exact absurd (ha.symm.trans hfail) nofun
    · exact hframe
  · rintro ⟨m, hframe, rfl⟩
    simp only [exec, execUiPrepare, if_pos ha, bind, Except.bind, hframe, finish]

theorem getElem?_hdrBytes (k : Fin 14) : Config.hdrBytes[k.val]? = some (Config.hdrAddr k) := by
  fin_cases k <;> rfl

/-- Settles O25: an info byte that nobody is writing is read from the frame under construction, which holds it by R122's
cases. -/
theorem uiPrepareBuildsTheFrame : Obligations.UiPrepareBuildsTheFrame := by
  intro s info hm d src n len hd hsrc hinfo
  have hargs : uiArgsOk s = true := uiArgsOk_iff.2 ⟨hd, hsrc⟩
  have hread : ∀ i < n, ∀ m' : Memory, (∀ b, m'.read b = frameByte s.mem d n info i b) →
      busRead s.bus .copy m' (src + i) = .ok (info i) := by
    intro i hi m' hm'
    have ha : src + i < 4294967296 := by omega
    have hi' := hinfo i hi
    by_cases hc : src + i ∈ s.bus.contended
    · simp only [if_pos hc] at hi'
      exact hi' ▸ busRead_contended ha hc
    · simp only [if_neg hc] at hi'
      exact busRead_held ha hc ((hm' _).trans (frameByte_eq_some hi.le hi'))
  obtain ⟨m, hrun, hframe⟩ := assembleFrame_reads hm hd hread
  refine ⟨m, (exec_uiPrepare_eq_next_iff hargs).2 ⟨m, hrun, rfl⟩, ?_, fun k => ?_, ?_, ?_, fun i hi => ?_, ?_,
    assembleFrame_holdsFcs hm hrun, fun a ha => ?_⟩
  · rw [hframe d (by omega) (by omega)]
    exact frameByte_envelope (k := 0) (by omega)
  · rw [hframe _ (by omega) (by omega), frameByte_header k.isLt, getElem?_hdrBytes]
  · rw [hframe _ (by omega) (by omega)]
    exact frameByte_envelope (by omega)
  · rw [hframe _ (by omega) (by omega)]
    exact frameByte_envelope (by omega)
  · rw [hframe _ (by omega) (by omega), frameByte_info hi]
  · rw [hframe _ (by omega) (by omega), frameByte_closing le_rfl]
  · rw [hframe _ (by omega) (by omega), frameByte_other (by omega) (by omega)]

/-- R120's clamp. -/
theorem infoLength_le (s : State) : infoLength s ≤ 256 := Nat.min_le_right ..

/-- UI_PREPARE's result fits its register: L of R120 is at most 276. -/
theorem toNat_ofNat_frameLength (s : State) : (BitVec.ofNat 32 (frameLength s)).toNat = infoLength s + 20 := by
  have hmax := infoLength_le s
  exact Nat.mod_eq_of_lt (show infoLength s + 20 < 2 ^ 32 by omega)

/-- Settles O27: UI_PREPARE keeps the operands and answers the frame's length, which is in range for CRC_COMPUTE, and
the frame it leaves holds its FCS. -/
theorem crcComputeAfterUiPrepareReturnsTheFcs : Obligations.CrcComputeAfterUiPrepareReturnsTheFcs := by
  intro s t hm hd hsrc ht
  obtain ⟨m, hrun, rfl⟩ := (exec_uiPrepare_eq_next_iff (uiArgsOk_iff.2 ⟨hd, hsrc⟩)).1 ht
  have hmax := infoLength_le s
  have hfits : s.arg0.toNat + (infoLength s + 20) ≤ 4294967296 := hd
  apply exec_crcCompute_fcsMatches
  · simp only [crcArgsOk_iff, setResCore_arg0, setResCore_resCore, toNat_ofNat_frameLength]
    omega
  · simp only [setResCore_arg0, setResCore_resCore, setResCore_mem, setResCore_bus, toNat_ofNat_frameLength]
    exact assembleFrame_holdsFcs hm hrun

end Sys2Proof.Machine
end

section
/-!
PROOFS. One TX command (spec/42_tx_engine.md R141 to R150): each case of the transmitter's steps as an equation, and the
TX commands from them.
-/

namespace Sys2Proof.Machine

/-! ### FlagStep (R147) -/

theorem bitpos_add_one_eq_zero_iff : ∀ p : BitVec 3, p + 1 = 0 ↔ p = 7 := by decide

/-- The flag's bits are 0,1,1,1,1,1,1,0. -/
theorem flag_getLsbD : ∀ p : BitVec 3, Config.flag.getLsbD p.toNat = decide (1 ≤ p.toNat ∧ p.toNat ≤ 6) := by decide

theorem flag_getLsbD_seven : Config.flag.getLsbD (7 : BitVec 3).toNat = false := by decide

theorem flagStep_within {t : Tx} (hpos : t.bitpos ≠ 7) :
    flagStep t = ({ emitBit (Config.flag.getLsbD t.bitpos.toNat) t with bitpos := t.bitpos + 1 }, true) := by
  have hnext : ¬t.bitpos + 1 = 0 := mt (bitpos_add_one_eq_zero_iff _).1 hpos
  simp only [flagStep, emitBit_bitpos, hnext, if_false]

theorem flagStep_byteEnd {t : Tx} (hpos : t.bitpos = 7) (hcount : t.flagcnt ≠ 1) :
    flagStep t = ({ emitBit false t with bitpos := 0, flagcnt := t.flagcnt - 1 }, true) := by
  have hleft : ¬t.flagcnt - 1 = 0 := sub_ne_zero.2 hcount
  simp only [flagStep, emitBit_bitpos, emitBit_flagcnt, hpos, flag_getLsbD_seven, (bitpos_add_one_eq_zero_iff 7).2,
    hleft, if_true, if_false]

theorem flagStep_lastPreamble {t : Tx} (hpos : t.bitpos = 7) (hcount : t.flagcnt = 1) (hmode : t.mode = .delayFlag) :
    flagStep t = ({ emitBit false t with bitpos := 0, flagcnt := 0, mode := .data, idx := 1, ones := 0 }, true) := by
  simp only [flagStep, emitBit_bitpos, emitBit_flagcnt, emitBit_mode, hpos, flag_getLsbD_seven, hcount, hmode, sub_self,
    (bitpos_add_one_eq_zero_iff 7).2, if_true]

theorem flagStep_lastPostamble {t : Tx} (hpos : t.bitpos = 7) (hcount : t.flagcnt = 1) (hmode : t.mode = .tail) :
    flagStep t = ({ emitBit false t with bitpos := 0, flagcnt := 0, mode := .off }, false) := by
  simp only [flagStep, emitBit_bitpos, emitBit_flagcnt, emitBit_mode, hpos, flag_getLsbD_seven, hcount, hmode, sub_self,
    (bitpos_add_one_eq_zero_iff 7).2, if_true, reduceCtorEq, if_false]

/-! ### DataStep (R148) and the case on the mode (R149) -/

section
variable {bus : Bus} {m : Memory} {post : BitVec 16} {t : Tx}

theorem txDataStep_stuff (h5 : t.ones = 5) :
    txDataStep bus m post t = .ok ({ emitBit false t with ones := 0 }, true) := by
  simp only [txDataStep, txCheckStuffing_five h5]

theorem txDataStep_end (h5 : t.ones ≠ 5) (hend : t.len.toNat ≤ t.idx.toNat + 1) :
    txDataStep bus m post t = .ok (flagStep (enterTail post t)) := by
  simp only [txDataStep, txCheckStuffing_ne h5, if_pos hend]

theorem txDataStep_bit {x : Byte} (h5 : t.ones ≠ 5) (hlt : t.idx.toNat + 1 < t.len.toNat)
    (hx : busRead bus .txBit m (t.base.toNat + t.idx.toNat) = .ok x) :
    txDataStep bus m post t = .ok (sendDataBit (x.getLsbD t.bitpos.toNat) t, true) := by
  simp only [txDataStep, txCheckStuffing_ne h5, if_neg (Nat.not_le.2 hlt), bind, Except.bind, hx]

theorem txNextBit_off (hmode : t.mode = .off) : txNextBit bus m post t = .ok (t, false) := by
  simp only [txNextBit, hmode]

theorem txNextBit_flag (hmode : t.mode = .delayFlag ∨ t.mode = .tail) : txNextBit bus m post t = .ok (flagStep t) := by
  rcases hmode with hmode | hmode
  · simp only [txNextBit, hmode]
  · simp only [txNextBit, hmode]

theorem txNextBit_data (hmode : t.mode = .data) : txNextBit bus m post t = txDataStep bus m post t := by
  simp only [txNextBit, hmode]

end

/-- TX_NEXT_BIT changes the engine and RES_TX as the case on the mode says. -/
theorem exec_txNextBit_of_ok {s : State} {x : Tx} {more : Bool}
    (h : txNextBit s.bus s.mem s.cfgPost s.tx = .ok (x, more)) :
    exec .txNextBit s = .next { s with resTx := more, tx := x } :=
  exec_txNextBit_eq h

theorem exec_txNextBit_flag {s : State} {x : Tx} {more : Bool} (hmode : s.tx.mode = .delayFlag ∨ s.tx.mode = .tail)
    (h : flagStep s.tx = (x, more)) : exec .txNextBit s = .next { s with resTx := more, tx := x } :=
  exec_txNextBit_of_ok (by rw [txNextBit_flag hmode, h])

/-! ### TX_INIT (R141, R142) -/

/-- Settles O28: the check of R91 passes, and TX_LEN holds every length up to 276. -/
theorem txInitStartsThePreamble : Obligations.TxInitStartsThePreamble := by
  intro s h2 h276 hfits
  have hargs : txInitArgsOk s = true := txInitArgsOk_iff.2 ⟨h2, h276, hfits⟩
  simp only [exec, execTxInit, if_pos hargs, txStart, flagCount, BitVec.ofNat_toNat]

/-- Settles O29: on numbers it is the ceiling of v / 8, at least 1. -/
theorem flagCountRoundsUp : Obligations.FlagCountRoundsUp := by
  refine ⟨fun v => ?_, by decide, by decide⟩
  have hv := v.isLt
  simp only [flagCount_toNat]
  exact ⟨by omega, by omega, by omega, fun k h1 hk => by omega⟩

/-! ### TX_BIT (R143) -/

theorem nrziEncode_toNat : ∀ nrzi b : Bool, (nrziEncode nrzi b).toNat = (nrzi.toNat + if b then 0 else 1) % 2 := by
  decide

theorem toNat_xor_taps (level : Bool) (scr : BitVec 17) :
    (level ^^ scramblerTaps scr).toNat = (level.toNat + scr.toNat / 2 ^ 11 + scr.toNat / 2 ^ 16) % 2 := by
  have h11 : (scr.getLsbD 11).toNat = scr.toNat / 2 ^ 11 % 2 := Nat.toNat_testBit ..
  have h16 : (scr.getLsbD 16).toNat = scr.toNat / 2 ^ 16 % 2 := Nat.toNat_testBit ..
  have hxor : ∀ a b c : Bool, (a ^^ (b ^^ c)).toNat = (a.toNat + b.toNat + c.toNat) % 2 := by decide
  rw [scramblerTaps, hxor, h11, h16]
  omega

theorem scramblerShift_eq_shiftConcat (scr : BitVec 17) (b : Bool) : scramblerShift scr b = scr.shiftConcat b := by
  ext i hi
  rw [BitVec.getElem_shiftConcat]
  cases i with
  | zero => simp [scramblerShift, zextBit]
  | succ i => simp [scramblerShift, zextBit]

theorem scramblerShift_eq_ofNat (scr : BitVec 17) (b : Bool) :
    scramblerShift scr b = BitVec.ofNat 17 (2 * scr.toNat + b.toNat) := by
  apply BitVec.eq_of_toNat_eq
  rw [scramblerShift_eq_shiftConcat, BitVec.toNat_shiftConcat, BitVec.toNat_ofNat, Nat.shiftLeft_eq, pow_one, mul_comm]

/-- Settles O30, by EmitBit's three fields as numbers. -/
theorem txBitResult : Obligations.TxBitResult := by
  intro b s level line
  have hlevel : (nrziEncode s.tx.nrzi b).toNat = level := nrziEncode_toNat ..
  have hline : (nrziEncode s.tx.nrzi b ^^ scramblerTaps s.tx.scr).toNat = line := by rw [toNat_xor_taps, hlevel]
  have hbit : ∀ x : Bool, (x.toNat == 1) = x := by decide
  rw [← hlevel, ← hline, hbit, hbit, ← scramblerShift_eq_ofNat]
  rfl

/-! ### TX_CHECK_STUFFING (R145) -/

/-- Settles O31, by CheckStuffing's two cases. -/
theorem txCheckStuffingResult : Obligations.TxCheckStuffingResult := by
  refine fun s => ⟨fun h5 => ?_, fun h5 => ?_⟩
  · rw [exec_txCheckStuffing, txCheckStuffing_five h5]
    rfl
  · rw [exec_txCheckStuffing, txCheckStuffing_ne h5]
    rfl

/-! ### TX_NEXT_BIT (R147 to R150) -/

/-- Settles O32: in TX_OFF the engine is left as it is. -/
theorem txNextBitWhenOff : Obligations.TxNextBitWhenOff :=
  fun _ hmode => exec_txNextBit_of_ok (txNextBit_off hmode)

theorem ofNat_toNat_add_one (p : BitVec 3) : BitVec.ofNat 3 (p.toNat + 1) = p + 1 :=
  BitVec.eq_of_toNat_eq (by simp)

/-- Settles O33, by FlagStep's four cases. -/
theorem txNextBitSendsFlags : Obligations.TxNextBitSendsFlags := by
  rintro s k hmode hcount rfl e
  have he : e = emitBit (Config.flag.getLsbD s.tx.bitpos.toNat) s.tx := by rw [flag_getLsbD]
  refine ⟨fun hk => ?_, fun hk h2 => ?_, fun hk h1 hdelay => ?_, fun hk h1 htail => ?_⟩
  · have hpos : s.tx.bitpos ≠ 7 := fun h => by simp [h] at hk
    rw [exec_txNextBit_flag hmode (flagStep_within hpos), he, ofNat_toNat_add_one]
  all_goals have hpos : s.tx.bitpos = 7 := BitVec.eq_of_toNat_eq hk
  all_goals have he7 : e = emitBit false s.tx := by simp only [e, hk]; rfl
  · have hne : s.tx.flagcnt ≠ 1 := fun h => by simp [h] at h2
    have hpred : BitVec.ofNat 16 (s.tx.flagcnt.toNat - 1) = s.tx.flagcnt - 1 := by
      bv_omega
    rw [exec_txNextBit_flag hmode (flagStep_byteEnd hpos hne), he7, hpred]
  · rw [exec_txNextBit_flag hmode (flagStep_lastPreamble hpos h1 hdelay), he7]
  · rw [exec_txNextBit_flag hmode (flagStep_lastPostamble hpos h1 htail), he7]

theorem flagStep_enterTail (post : BitVec 16) (t : Tx) :
    flagStep (enterTail post t) =
      ({ emitBit false t with mode := .tail, bitpos := 1, flagcnt := flagCount post }, true) := by
  have hbit : Config.flag.getLsbD (0 : BitVec 3).toNat = false := by decide
  rw [flagStep_within (by simp), enterTail_bitpos, hbit]
  rfl

theorem sendDataBit_eq (b : Bool) (t : Tx) : sendDataBit b t =
    { emitBit b t with
      ones := if b then t.ones + 1 else 0
      bitpos := BitVec.ofNat 3 ((t.bitpos.toNat + 1) % 8)
      idx := BitVec.ofNat 9 (if t.bitpos.toNat = 7 then t.idx.toNat + 1 else t.idx.toNat) } := by
  have hpos : BitVec.ofNat 3 ((t.bitpos.toNat + 1) % 8) = t.bitpos + 1 := BitVec.eq_of_toNat_eq (by simp)
  have hseven : t.bitpos + 1 = 0 ↔ t.bitpos.toNat = 7 :=
    (bitpos_add_one_eq_zero_iff _).trans (BitVec.toNat_inj (y := 7)).symm
  have hidx : BitVec.ofNat 9 (if t.bitpos.toNat = 7 then t.idx.toNat + 1 else t.idx.toNat) =
      if t.bitpos + 1 = 0 then t.idx + 1 else t.idx := by
    simp only [hseven]
    split
    · exact BitVec.eq_of_toNat_eq (by simp)
    · exact by simp
  rw [hpos, hidx]
  rfl

/-- Settles O34, by DataStep's three cases; the tail is entered with the first bit of a flag, a 0. -/
theorem txNextBitSendsData : Obligations.TxNextBitSendsData := by
  refine fun s hmode => ⟨fun h5 => ?_, fun h5 hend => ?_, fun h5 hlt x hx => ?_⟩
  · exact exec_txNextBit_of_ok ((txNextBit_data hmode).trans (txDataStep_stuff h5))
  · apply exec_txNextBit_of_ok
    rw [txNextBit_data hmode, txDataStep_end h5 hend, flagStep_enterTail]
    rfl
  · apply exec_txNextBit_of_ok
    rw [txNextBit_data hmode, txDataStep_bit h5 hlt hx, sendDataBit_eq]

end Sys2Proof.Machine
end

section
/-!
PROOFS. The scrambler (spec/42_tx_engine.md R144): each line bit enters TX_SCR at bit 0 and moves up one place a step, so the
taps at bits 11 and 16 hold the line bits of 12 and 17 steps before.
-/

namespace Sys2Proof.Machine

/-- The line bit `j` steps before step `k` of a run from `t` with line bits `ys`; one from before the run is a bit of
TX_SCR. -/
def lineBitBefore (t : Tx) (ys : List Bool) (k j : Nat) : Bool :=
  if j ≤ k then ys.getD (k - j) false else t.scr.getLsbD (j - k - 1)

theorem emitBit_scr_getLsbD (b : Bool) (t : Tx) {i : Nat} (hi : i < 17) :
    (emitBit b t).scr.getLsbD i = if i = 0 then (emitBit b t).line else t.scr.getLsbD (i - 1) := by
  rw [emitBit_scr, scramblerShift_eq_shiftConcat, BitVec.getLsbD_shiftConcat, decide_eq_true hi, Bool.true_and]

/-- The first step of a run taken apart: its line bit is bit 0 of the register the rest of the run starts from. -/
theorem lineBitBefore_succ (b : Bool) (t : Tx) (ys : List Bool) (k : Nat) {j : Nat} (h1 : 1 ≤ j) (h17 : j ≤ 17) :
    lineBitBefore t ((emitBit b t).line :: ys) (k + 1) j = lineBitBefore (emitBit b t) ys k j := by
  unfold lineBitBefore
  rcases Nat.lt_trichotomy j (k + 1) with h | rfl | h
  · have hsub : k + 1 - j = k - j + 1 := by omega
    rw [if_pos (by omega), if_pos (by omega), hsub, List.getD_cons_succ]
  · rw [if_pos (by omega), if_neg (by omega), emitBit_scr_getLsbD b t (by omega), if_pos (by omega), Nat.sub_self,
      List.getD_cons_zero]
  · have hsub : j - (k + 1) - 1 = j - k - 1 - 1 := by omega
    rw [if_neg (by omega), if_neg (by omega), emitBit_scr_getLsbD b t (by omega), if_neg (by omega), hsub]

theorem lineBits_getD (t : Tx) (bs : List Bool) (k : Nat) (hk : k < bs.length) :
    (lineBits t bs).getD k false = ((levelBits t bs).getD k false ^^
      lineBitBefore t (lineBits t bs) k 12 ^^ lineBitBefore t (lineBits t bs) k 17) := by
  induction bs generalizing t k with
  | nil => exact absurd hk (Nat.not_lt_zero k)
  | cons b bs ih =>
    cases k with
    | zero => simp [lineBits, levelBits, lineBitBefore, scramblerTaps]
    | succ k =>
      have hrest := ih (emitBit b t) k (Nat.lt_of_succ_lt_succ hk)
      simpa only [lineBits, levelBits, List.getD_cons_succ, lineBitBefore_succ b t _ k (show 1 ≤ 12 by decide) (by decide),
        lineBitBefore_succ b t _ k (show 1 ≤ 17 by decide) (by decide)] using hrest

/-- Settles O36, by induction on the run. -/
theorem scramblerLaw : Obligations.ScramblerLaw := lineBits_getD

end Sys2Proof.Machine
end

section
/-!
PROOFS. The table of TX modes (spec/42_tx_engine.md R151).
-/

namespace Sys2Proof.Machine

/-- The rows of R151's table that FlagStep makes. -/
theorem flagStep_mode_ne {t x : Tx} {more : Bool} (h : flagStep t = (x, more)) (hne : x.mode ≠ t.mode) :
    t.bitpos = 7 ∧ t.flagcnt = 1 ∧
      ((t.mode = .delayFlag ∧ x.mode = .data ∧ x.idx = 1 ∧ x.ones = 0) ∨
        (t.mode ≠ .delayFlag ∧ x.mode = .off ∧ more = false)) := by
  rcases flagStep_cases t with ⟨-, heq⟩ | ⟨-, -, heq⟩ | ⟨hpos, hcount, hmode, heq⟩ | ⟨hpos, hcount, hmode, heq⟩
  all_goals cases h.symm.trans heq
  · exact absurd rfl hne
  · exact absurd rfl hne
  · exact ⟨(bitpos_add_one_eq_zero_iff _).1 hpos, sub_eq_zero.1 hcount, .inl ⟨hmode, rfl, rfl, rfl⟩⟩
  · exact ⟨(bitpos_add_one_eq_zero_iff _).1 hpos, sub_eq_zero.1 hcount, .inr ⟨hmode, rfl, rfl⟩⟩

/-- The rows of R151's table that TX_NEXT_BIT makes. -/
theorem txNextBit_mode_ne {bus : Bus} {m : Memory} {post : BitVec 16} {t x : Tx} {more : Bool}
    (h : txNextBit bus m post t = .ok (x, more)) (hne : x.mode ≠ t.mode) :
    (t.mode = .delayFlag ∧ x.mode = .data ∧ t.flagcnt = 1 ∧ t.bitpos = 7 ∧ x.idx = 1 ∧ x.ones = 0) ∨
    (t.mode = .data ∧ x.mode = .tail ∧ t.ones ≠ 5 ∧ t.len.toNat ≤ t.idx.toNat + 1) ∨
    (t.mode = .tail ∧ x.mode = .off ∧ t.flagcnt = 1 ∧ t.bitpos = 7 ∧ more = false) := by
  rcases txNextBit_ok h with ⟨-, rfl, -⟩ | ⟨hmode, hflag⟩ | ⟨hmode, hdata⟩
  · exact absurd rfl hne
  · obtain ⟨hpos, hcount, ⟨hdelay, hx, hidx, hones⟩ | ⟨hdelay, hx, hmore⟩⟩ := flagStep_mode_ne hflag hne
    · exact .inl ⟨hdelay, hx, hcount, hpos, hidx, hones⟩
    · exact .inr (.inr ⟨hmode.resolve_left hdelay, hx, hcount, hpos, hmore⟩)
  · rcases txDataStep_ok hdata with ⟨-, rfl, -⟩ | ⟨h5, hend, htail⟩ | ⟨-, -, -, y, -, rfl⟩
    · exact absurd rfl hne
    · rw [flagStep_enterTail] at htail
      cases htail
      exact .inr (.inl ⟨hmode, rfl, h5, hend⟩)
    · exact absurd rfl hne

theorem txCheckStuffing_mode (t : Tx) : (txCheckStuffing t).1.mode = t.mode := by
  by_cases h5 : t.ones = 5
  · rw [txCheckStuffing_five h5]
    rfl
  · rw [txCheckStuffing_ne h5]

/-- Settles O37: of the commands that reach the transmit engine only TX_INIT and TX_NEXT_BIT change TX_MODE. -/
theorem txTransitionTable : Obligations.TxTransitionTable := by
  intro s t i h hne
  rcases command_families i with hi | ⟨b, hi⟩ | ⟨c, hi⟩
  · exact absurd (congrArg Tx.mode (coreCommand_keeps_engines hi h).1) hne
  · simp only [List.mem_cons, List.not_mem_nil, or_false] at hi
    rcases hi with rfl | rfl | rfl | rfl
    · rcases exec_txInit_next h with ⟨-, rfl⟩ | ⟨-, rfl⟩
      · exact absurd (congrArg Tx.mode (raiseError_tx .argErr s)) hne
      · exact .inl ⟨rfl, rfl⟩
    · cases h
      exact absurd rfl hne
    · cases h
      exact absurd (txCheckStuffing_mode s.tx) hne
    · obtain ⟨x, more, hx, rfl⟩ := exec_txNextBit_next h
      rcases txNextBit_mode_ne hx hne with hrow | hrow | hrow
      · exact .inr (.inl ⟨rfl, hrow⟩)
      · exact .inr (.inr (.inl ⟨rfl, hrow⟩))
      · exact .inr (.inr (.inr ⟨rfl, hrow⟩))
  · exact absurd (congrArg Tx.mode (rxCommand_keeps_tx hi h)) hne

end Sys2Proof.Machine
end

section
/-!
PROOFS. The frame on the line (spec/42_tx_engine.md R152). What a transmit engine has still to send is a list of logical
bits; each TX_NEXT_BIT takes the first of them to the line, through the preamble, the stuffed data and the postamble.
-/

namespace Sys2Proof.Machine

/-! ### The line's part of an engine -/

/-- The fields EmitBit writes. -/
def Tx.lineState (t : Tx) : Bool × Bool × BitVec 17 := (t.nrzi, t.line, t.scr)

theorem Tx.lineState_eq_iff {t u : Tx} : t.lineState = u.lineState ↔ t.nrzi = u.nrzi ∧ t.line = u.line ∧ t.scr = u.scr := by
  simp only [Tx.lineState, Prod.mk.injEq]

theorem lineState_emitBit {t u : Tx} (h : t.lineState = u.lineState) (b : Bool) :
    (emitBit b t).lineState = (emitBit b u).lineState := by
  obtain ⟨hnrzi, -, hscr⟩ := Tx.lineState_eq_iff.1 h
  simp only [Tx.lineState, emitBit_nrzi, emitBit_line, emitBit_scr, hnrzi, hscr]

theorem lineBits_of_lineState {t u : Tx} (h : t.lineState = u.lineState) (bs : List Bool) :
    lineBits t bs = lineBits u bs := by
  induction bs generalizing t u with
  | nil => rfl
  | cons b bs ih =>
    have hb := lineState_emitBit h b
    obtain ⟨-, hline, -⟩ := Tx.lineState_eq_iff.1 hb
    rw [lineBits, lineBits, hline, ih hb]

theorem lineState_emitAll {t u : Tx} (h : t.lineState = u.lineState) (bs : List Bool) :
    (emitAll t bs).lineState = (emitAll u bs).lineState := by
  induction bs generalizing t u with
  | nil => exact h
  | cons b bs ih => exact ih (lineState_emitBit h b)

/-! ### What an engine has still to send -/

/-- From `t` on, TX_NEXT_BIT called once a bit sends exactly these logical bits: it returns 1 with each but the last, and 0
with the last, which leaves TX_OFF. -/
inductive TxSends (bus : Bus) (m : Memory) (post : BitVec 16) : Tx → List Bool → Prop
  | last {t u : Tx} {b : Bool} (step : txNextBit bus m post t = .ok (u, false))
      (line : u.lineState = (emitBit b t).lineState) (off : u.mode = .off) : TxSends bus m post t [b]
  | more {t u : Tx} {b : Bool} {bs : List Bool} (step : txNextBit bus m post t = .ok (u, true))
      (line : u.lineState = (emitBit b t).lineState) (rest : TxSends bus m post u bs) : TxSends bus m post t (b :: bs)

/-- RES_TX after each of `n` commands of which only the last returns 0. -/
def txResults (n : Nat) : List Bool := List.replicate (n - 1) true ++ [false]

theorem txResults_succ {n : Nat} (h : 0 < n) : txResults (n + 1) = true :: txResults n := by
  obtain ⟨n, rfl⟩ := Nat.exists_eq_add_of_lt h
  simp [txResults, List.replicate_succ]

section
variable {bus : Bus} {m : Memory} {post : BitVec 16} {t u : Tx} {bits : List Bool}

theorem TxSends.length_pos (h : TxSends bus m post t bits) : 0 < bits.length := by
  cases h <;> simp

/-- What is to be sent depends on the next step and on the line's part of the engine. -/
theorem TxSends.of_step_eq (h : TxSends bus m post u bits) (hstep : txNextBit bus m post t = txNextBit bus m post u)
    (hline : u.lineState = t.lineState) : TxSends bus m post t bits := by
  cases h with
  | last step line off => exact .last (hstep.trans step) (line.trans (lineState_emitBit hline _)) off
  | more step line rest => exact .more (hstep.trans step) (line.trans (lineState_emitBit hline _)) rest

/-- The run of TX_NEXT_BIT commands that sends the bits. -/
theorem TxSends.txRun_eq (h : TxSends bus m post t bits) (s : State) (htx : s.tx = t) (hbus : s.bus = bus)
    (hmem : s.mem = m) (hpost : s.cfgPost = post) :
    ∃ v, txRun bits.length s = some ((lineBits t bits).zip (txResults bits.length), v) ∧
      v.tx.mode = .off ∧ v.tx.lineState = (emitAll t bits).lineState ∧ v.mem = m := by
  induction h generalizing s with
  | @last t u b step line off =>
    subst htx hbus hmem hpost
    obtain ⟨-, hline, -⟩ := Tx.lineState_eq_iff.1 line
    refine ⟨{ s with resTx := false, tx := u }, ?_, off, line, rfl⟩
    simp [txRun, exec_txNextBit_of_ok step, lineBits, txResults, hline]
  | @more t u b bs step line hrest ih =>
    subst htx hbus hmem hpost
    obtain ⟨-, hline, -⟩ := Tx.lineState_eq_iff.1 line
    obtain ⟨v, hrun, hoff, hlast, hmem⟩ := ih { s with resTx := true, tx := u } rfl rfl rfl rfl
    refine ⟨v, ?_, hoff, hlast.trans (lineState_emitAll line bs), hmem⟩
    simp only [List.length_cons, txRun, exec_txNextBit_of_ok step, hrun, Option.map_some, lineBits,
      txResults_succ hrest.length_pos, List.zip_cons_cons, hline, lineBits_of_lineState line]

end

/-! ### The engine's steps through a frame -/

/-- An engine at bit `p` of a flag byte, `n` flags to go in the mode, over the buffer of `len` bytes at `a`; the other
fields are those of `l`. -/
def Tx.atFlag (mode : TxMode) (a : Word) (len : BitVec 9) (n p : Nat) (l : Tx) : Tx :=
  { l with mode := mode, bitpos := BitVec.ofNat 3 p, flagcnt := BitVec.ofNat 16 n, base := a, len := len }

/-- An engine at bit `q` of the data in the buffer of `len` bytes at `a`, which begin with byte 1, after `c` ones; the other
fields are those of `l`. -/
def Tx.atData (a : Word) (len : BitVec 9) (q c : Nat) (l : Tx) : Tx :=
  { l with mode := .data, bitpos := BitVec.ofNat 3 q, idx := BitVec.ofNat 9 (1 + q / 8), ones := BitVec.ofNat 3 c,
           flagcnt := 0, base := a, len := len }

section
variable {bus : Bus} {m : Memory} {post : BitVec 16} {mode : TxMode} {a : Word} {len : BitVec 9} {n p q c : Nat}
  {rest : List Bool}

theorem txNextBit_atFlag (hmode : mode = .delayFlag ∨ mode = .tail) (hp : p < 7) (l : Tx) :
    txNextBit bus m post (.atFlag mode a len n p l) =
      .ok (.atFlag mode a len n (p + 1) (emitBit (Config.flag.getLsbD p) l), true) := by
  have hpos : (BitVec.ofNat 3 p).toNat = p := Nat.mod_eq_of_lt (by omega)
  have hseven : (Tx.atFlag mode a len n p l).bitpos ≠ 7 := fun h => hp.ne (hpos.symm.trans (congrArg BitVec.toNat h))
  rw [txNextBit_flag hmode, flagStep_within hseven]
  simp only [Tx.atFlag, hpos, BitVec.ofNat_add]
  rfl

theorem txNextBit_atFlag_byteEnd (hmode : mode = .delayFlag ∨ mode = .tail) (h1 : 1 ≤ n) (hn : n < 8192) (l : Tx) :
    txNextBit bus m post (.atFlag mode a len (n + 1) 7 l) = .ok (.atFlag mode a len n 0 (emitBit false l), true) := by
  have hmore : (Tx.atFlag mode a len (n + 1) 7 l).flagcnt ≠ 1 := fun h => by
    have := congrArg BitVec.toNat h
    simp [Tx.atFlag] at this
    omega
  have hpred : (Tx.atFlag mode a len (n + 1) 7 l).flagcnt - 1 = BitVec.ofNat 16 n := by
    simp [Tx.atFlag, BitVec.ofNat_add]
  rw [txNextBit_flag hmode, flagStep_byteEnd rfl hmore, hpred]
  rfl

theorem txNextBit_atFlag_preambleEnd (l : Tx) :
    txNextBit bus m post (.atFlag .delayFlag a len 1 7 l) = .ok (.atData a len 0 0 (emitBit false l), true) := by
  rw [txNextBit_flag (.inl rfl), flagStep_lastPreamble rfl rfl rfl]
  rfl

theorem txNextBit_atData_stuff (l : Tx) :
    txNextBit bus m post (.atData a len q 5 l) = .ok (.atData a len q 0 (emitBit false l), true) := by
  rw [txNextBit_data rfl, txDataStep_stuff rfl]
  rfl

theorem atData_ones_ne_five (hc : c < 5) (l : Tx) : (Tx.atData a len q c l).ones ≠ 5 := fun h => by
  have := congrArg BitVec.toNat h
  simp [Tx.atData] at this
  omega

theorem atData_idx_toNat (hq : 1 + q / 8 < 512) (l : Tx) : (Tx.atData a len q c l).idx.toNat = 1 + q / 8 :=
  Nat.mod_eq_of_lt hq

/-- A data bit sent: TX_IDX follows the count of the bits. -/
theorem sendDataBit_atData (b : Bool) (l : Tx) : sendDataBit b (.atData a len q c l) =
    .atData a len (q + 1) (if b then c + 1 else 0) (emitBit b l) := by
  have hpos : (Tx.atData a len q c l).bitpos + 1 = BitVec.ofNat 3 (q + 1) := (BitVec.ofNat_add q 1).symm
  have hzero : BitVec.ofNat 3 (q + 1) = 0 ↔ (q + 1) % 8 = 0 := by simp [← BitVec.toNat_inj]
  have hidx : (if BitVec.ofNat 3 (q + 1) = 0 then (Tx.atData a len q c l).idx + 1 else (Tx.atData a len q c l).idx) =
      BitVec.ofNat 9 (1 + (q + 1) / 8) := by
    simp only [hzero]
    split
    · rw [show 1 + (q + 1) / 8 = 1 + q / 8 + 1 by omega, BitVec.ofNat_add]
      rfl
    · rw [show 1 + (q + 1) / 8 = 1 + q / 8 by omega]
      rfl
  have hones : (if b then (Tx.atData a len q c l).ones + 1 else 0) = BitVec.ofNat 3 (if b then c + 1 else 0) := by
    cases b with
    | false => rfl
    | true => exact (BitVec.ofNat_add c 1).symm
  rw [sendDataBit, hpos, hidx, hones]
  rfl

theorem txNextBit_atData_bit {x : Byte} (hc : c < 5) (hq : q / 8 + 2 < len.toNat)
    (hx : busRead bus .txBit m (a.toNat + 1 + q / 8) = .ok x) (l : Tx) :
    txNextBit bus m post (.atData a len q c l) =
      .ok (.atData a len (q + 1) (if x.getLsbD (q % 8) then c + 1 else 0) (emitBit (x.getLsbD (q % 8)) l), true) := by
  have hlen := len.isLt
  have hidx := atData_idx_toNat (a := a) (len := len) (c := c) (q := q) (by omega) l
  have hlt : (Tx.atData a len q c l).idx.toNat + 1 < len.toNat := by omega
  have hread : busRead bus .txBit m (a.toNat + (Tx.atData a len q c l).idx.toNat) = .ok x := by
    rwa [hidx, ← Nat.add_assoc]
  rw [txNextBit_data rfl, txDataStep_bit (atData_ones_ne_five hc l) hlt hread, sendDataBit_atData]
  rfl

/-- At the closing flag the tail is entered without a bit of its own, and sends. -/
theorem txNextBit_atData_end (hc : c < 5) (hq : len.toNat = q / 8 + 2) (l : Tx) :
    txNextBit bus m post (.atData a len q c l) =
      txNextBit bus m post (.atFlag .tail a len (flagCount post).toNat 0 (.atData a len q c l)) := by
  have hlen := len.isLt
  have hidx := atData_idx_toNat (a := a) (len := len) (c := c) (q := q) (by omega) l
  have hend : len.toNat ≤ (Tx.atData a len q c l).idx.toNat + 1 := by omega
  have htail : enterTail post (.atData a len q c l) =
      .atFlag .tail a len (flagCount post).toNat 0 (.atData a len q c l) := by
    simp only [Tx.atFlag, BitVec.ofNat_toNat, BitVec.setWidth_eq]
    rfl
  rw [txNextBit_data rfl, txDataStep_end (atData_ones_ne_five hc l) hend, htail, txNextBit_flag (.inr rfl)]

/-! ### Flags (R147) -/

/-- One flag byte, up to its last bit. -/
theorem TxSends.flagByte (hmode : mode = .delayFlag ∨ mode = .tail)
    (h : ∀ l, TxSends bus m post (.atFlag mode a len n 7 l) (false :: rest)) (l : Tx) :
    TxSends bus m post (.atFlag mode a len n 0 l) (byteBits 0x7E ++ rest) := by
  have hbit {p : Nat} {bits : List Bool} (hp : p < 7)
      (h : ∀ l, TxSends bus m post (.atFlag mode a len n (p + 1) l) bits) (l : Tx) :
      TxSends bus m post (.atFlag mode a len n p l) (Config.flag.getLsbD p :: bits) :=
    .more (txNextBit_atFlag hmode hp l) rfl (h _)
  exact hbit (by decide) (hbit (by decide) (hbit (by decide) (hbit (by decide) (hbit (by decide) (hbit (by decide)
    (hbit (by decide) h)))))) l

/-- All flags of a mode, up to the last bit of the last. -/
theorem TxSends.flagBytes (hmode : mode = .delayFlag ∨ mode = .tail)
    (h : ∀ l, TxSends bus m post (.atFlag mode a len 1 7 l) (false :: rest)) (hn : n < 8192) (l : Tx) :
    TxSends bus m post (.atFlag mode a len (n + 1) 0 l) ((List.replicate (n + 1) (byteBits 0x7E)).flatten ++ rest) := by
  rw [List.replicate_succ, List.flatten_cons, List.append_assoc]
  induction n generalizing l with
  | zero => exact flagByte hmode h l
  | succ n ih =>
    rw [List.replicate_succ, List.flatten_cons, List.append_assoc]
    exact flagByte hmode (fun l => .more (txNextBit_atFlag_byteEnd hmode (by omega) hn l) rfl (ih (by omega) _)) l

/-- FlagCount's flags, up to the last bit of the last. -/
theorem TxSends.flags (v : BitVec 16) (hmode : mode = .delayFlag ∨ mode = .tail)
    (h : ∀ l, TxSends bus m post (.atFlag mode a len 1 7 l) (false :: rest)) (l : Tx) :
    TxSends bus m post (.atFlag mode a len (flagCount v).toNat 0 l) (flagStream v ++ rest) := by
  obtain ⟨h1, h8192⟩ := flagCount_bounds v
  rw [flagStream, ← Nat.sub_add_cancel h1]
  exact flagBytes hmode h (by omega) l

theorem TxSends.preamble (pre : BitVec 16) (h : ∀ l, TxSends bus m post (.atData a len 0 0 l) rest) (l : Tx) :
    TxSends bus m post (.atFlag .delayFlag a len (flagCount pre).toNat 0 l) (flagStream pre ++ rest) :=
  flags pre (.inl rfl) (fun l => .more (txNextBit_atFlag_preambleEnd l) rfl (h _)) l

theorem TxSends.postamble (v : BitVec 16) (l : Tx) :
    TxSends bus m post (.atFlag .tail a len (flagCount v).toNat 0 l) (flagStream v) := by
  rw [← List.append_nil (flagStream v)]
  exact flags v (.inr rfl) (fun l => .last ((txNextBit_flag (.inr rfl)).trans
    (congrArg Except.ok (flagStep_lastPostamble rfl rfl rfl))) rfl rfl) l

/-! ### Data (R146, R148) -/

/-- A list of bits still to be stuffed, after `c` ones: after five a zero is due first. -/
def pendingBits (c : Nat) (bs : List Bool) : List Bool := if c = 5 then false :: stuffBits 0 bs else stuffBits c bs

theorem stuffBits_cons (c : Nat) (b : Bool) (bs : List Bool) :
    stuffBits c (b :: bs) = b :: pendingBits (if b then c + 1 else 0) bs := by
  cases b with
  | false => rfl
  | true =>
    by_cases h4 : c = 4
    · simp [stuffBits, pendingBits, h4]
    · simp [stuffBits, pendingBits, h4]

theorem TxSends.pending {bs : List Bool}
    (h : ∀ c < 5, ∀ l, TxSends bus m post (.atData a len q c l) (stuffBits c bs ++ rest)) (hc : c ≤ 5) (l : Tx) :
    TxSends bus m post (.atData a len q c l) (pendingBits c bs ++ rest) := by
  unfold pendingBits
  split
  · subst c
    exact .more (txNextBit_atData_stuff l) rfl (h 0 (by decide) _)
  · exact h c (by omega) l

/-- Bit `q` of a list of bytes in channel order. -/
theorem getElem?_flatMap_byteBits (bytes : List Byte) (q : Nat) :
    (bytes.flatMap byteBits)[q]? = bytes[q / 8]?.map fun x => x.getLsbD (q % 8) := by
  induction bytes generalizing q with
  | nil => simp
  | cons x bytes ih =>
    rw [List.flatMap_cons]
    by_cases hq : q < 8
    · have hlow : q / 8 = 0 := by omega
      have hmod : q % 8 = q := by omega
      rw [List.getElem?_append_left hq, byteBits_eq_map_range, List.getElem?_map, List.getElem?_range hq, hlow, hmod]
      rfl
    · obtain ⟨r, rfl⟩ := Nat.exists_eq_add_of_le' (Nat.not_lt.1 hq)
      have hhigh : (r + 8) / 8 = r / 8 + 1 := by omega
      rw [List.getElem?_append_right (Nat.le_add_left 8 r), show r + 8 - (byteBits x).length = r from Nat.add_sub_cancel ..,
        ih, hhigh, Nat.add_mod_right, List.getElem?_cons_succ]

/-- The bits of a buffer's bytes 1 to L - 2 from bit `q` on, and then what is sent from the closing flag on. -/
theorem TxSends.dataBits {bytes : List Byte} (hlen : len.toNat = bytes.length + 2)
    (hread : ∀ k x, bytes[k]? = some x → busRead bus .txBit m (a.toNat + 1 + k) = .ok x)
    (hend : ∀ c < 5, ∀ l, TxSends bus m post (.atData a len (8 * bytes.length) c l) rest) (bs : List Bool) (q : Nat)
    (hbs : (bytes.flatMap byteBits).drop q = bs) (hq : q ≤ 8 * bytes.length) (c : Nat) (hc : c < 5) (l : Tx) :
    TxSends bus m post (.atData a len q c l) (stuffBits c bs ++ rest) := by
  induction bs generalizing q c l with
  | nil =>
    have hall := List.drop_eq_nil_iff.1 hbs
    rw [length_flatMap_byteBits] at hall
    obtain rfl : q = 8 * bytes.length := by omega
    exact hend c hc l
  | cons b bs ih =>
    have hb : (bytes.flatMap byteBits)[q]? = some b := by rw [← List.head?_drop, hbs, List.head?_cons]
    rw [getElem?_flatMap_byteBits] at hb
    obtain ⟨x, hx, rfl⟩ := Option.map_eq_some_iff.1 hb
    obtain ⟨hlt, -⟩ := List.getElem?_eq_some_iff.1 hx
    have hrest : (bytes.flatMap byteBits).drop (q + 1) = bs := by rw [← List.tail_drop, hbs, List.tail_cons]
    rw [stuffBits_cons, List.cons_append]
    refine .more (txNextBit_atData_bit hc (by omega) (hread _ _ hx) l) rfl (pending (ih _ hrest (by omega)) ?_ _)
    split <;> omega

/-- The frame from its first data bit on. -/
theorem TxSends.data {bytes : List Byte} (hlen : len.toNat = bytes.length + 2)
    (hread : ∀ k x, bytes[k]? = some x → busRead bus .txBit m (a.toNat + 1 + k) = .ok x) (l : Tx) :
    TxSends bus m post (.atData a len 0 0 l) (dataStream bytes ++ flagStream post) := by
  refine dataBits hlen hread (fun c hc l => ?_) _ 0 List.drop_zero (Nat.zero_le _) 0 (by decide) l
  exact (postamble post _).of_step_eq (txNextBit_atData_end hc (by omega) l) rfl

end

/-- Settles O38: what TX_INIT leaves has the preamble to send, then the data, then the postamble. -/
theorem txFrameOnTheLine : Obligations.TxFrameOnTheLine := by
  intro s a len before bytes htx h2 h276 _ hbytes hread bits
  have hlen : (BitVec.ofNat 9 len.toNat).toNat = bytes.length + 2 := by
    rw [BitVec.toNat_ofNat, Nat.mod_eq_of_lt (by omega)]
    omega
  have hstart : s.tx = .atFlag .delayFlag a (BitVec.ofNat 9 len.toNat) (flagCount s.cfgPre).toNat 0
      { before with idx := 0, ones := 0, nrzi := true } := by
    rw [htx]
    simp only [Tx.atFlag, BitVec.ofNat_toNat, BitVec.setWidth_eq]
    rfl
  have hsends : TxSends s.bus s.mem s.cfgPost s.tx bits := by
    rw [hstart, show bits = _ from List.append_assoc ..]
    exact .preamble s.cfgPre (.data hlen hread) _
  obtain ⟨t, hrun, hoff, hline, hmem⟩ := hsends.txRun_eq s rfl rfl rfl rfl
  obtain ⟨-, -, hscr⟩ := Tx.lineState_eq_iff.1 hline
  exact ⟨t, hrun, hoff, hscr, hmem⟩

end Sys2Proof.Machine
end

section
/-!
PROOFS. One RX command (spec/43_rx_engine.md R181 to R191): each case of the receiver's steps as an equation, and the RX
commands from them.
-/

namespace Sys2Proof.Machine

/-! ### RX_INIT (R181) -/

/-- Settles O39: the check of R91 passes. -/
theorem rxInitStartsTheHunt : Obligations.RxInitStartsTheHunt := by
  intro s hfits
  rw [exec, execRxInit, if_pos (rxInitArgsOk_iff.2 hfits)]
  rfl

/-! ### RX_BIT (R183) -/

theorem descramble_toNat (c : Bool) (r : Rx) :
    (descramble c r).toNat = (c.toNat + r.scr.toNat / 2 ^ 11 + r.scr.toNat / 2 ^ 16) % 2 :=
  toNat_xor_taps c r.scr

/-- Settles O40, by DecodeBit's result and its two fields as numbers. -/
theorem rxBitResult : Obligations.RxBitResult := by
  intro c s level
  have hlevel : (descramble c s.rx).toNat = level := descramble_toNat c s.rx
  have hbit : ∀ x : Bool, (x.toNat == 1) = x := by decide
  have hsame : ∀ x y : Bool, (x.toNat == y.toNat) = (x == y) := by decide
  rw [← hlevel, hbit, hsame, ← scramblerShift_eq_ofNat]
  rfl

/-! ### RX_CHECK_STUFFING (R185) -/

theorem checkUnstuff_zero {c : Bool} {r : Rx} (h : decodedBit c r = false) :
    checkUnstuff c r = ({ decodeBit c r with ones := 0 }, true) := by simp [checkUnstuff, h]

theorem checkUnstuff_one {c : Bool} {r : Rx} (h : decodedBit c r = true) :
    checkUnstuff c r = (decodeBit c r, false) := by
  simp [checkUnstuff, h]

/-- Settles O41, by CheckUnstuff's two cases. -/
theorem rxCheckStuffingResult : Obligations.RxCheckStuffingResult := by
  refine fun c s => ⟨fun hd => ?_, fun hd => ?_⟩
  · rw [exec_rxCheckStuffing, checkUnstuff_zero hd]
    rfl
  · rw [exec_rxCheckStuffing, checkUnstuff_one hd]
    rfl

/-! ### Accumulate (R184) -/

/-- RX_ACC after Accumulate. -/
def shiftIn (d : Bool) (acc : Byte) : Byte := (acc >>> 1) ||| (zextBit 8 d <<< 7)

theorem accumulate_eq (d : Bool) (r : Rx) : accumulate d r = { r with acc := shiftIn d r.acc } := rfl

theorem getLsbD_shiftIn (d : Bool) (acc : Byte) {i : Nat} (hi : i < 8) :
    (shiftIn d acc).getLsbD i = if i = 7 then d else acc.getLsbD (i + 1) := by
  rw [shiftIn, BitVec.getLsbD_or, BitVec.getLsbD_ushiftRight, BitVec.getLsbD_shiftLeft, zextBit, Nat.add_comm 1]
  by_cases h7 : i = 7
  · simp [h7]
  · simp [h7, show i < 7 by omega]

theorem shiftIn_eq_ofNat (d : Bool) (acc : Byte) : shiftIn d acc = BitVec.ofNat 8 (acc.toNat / 2 + 128 * d.toNat) := by
  have hacc := acc.isLt
  have hd := d.toNat_lt
  have htop : (zextBit 8 d <<< 7).toNat = 2 ^ 7 * d.toNat := by cases d <;> rfl
  have hlow : (acc >>> 1).toNat = acc.toNat / 2 := by rw [BitVec.toNat_ushiftRight, Nat.shiftRight_eq_div_pow, pow_one]
  apply BitVec.eq_of_toNat_eq
  rw [BitVec.toNat_ofNat, Nat.mod_eq_of_lt (by omega), shiftIn, BitVec.toNat_or, htop, hlow, Nat.lor_comm,
    ← Nat.two_pow_add_eq_or_of_lt (by omega), Nat.add_comm]

theorem shiftIn_eq_flag_iff (d : Bool) (acc : Byte) :
    shiftIn d acc = Config.flag ↔ acc.toNat / 2 + 128 * d.toNat = 0x7E := by
  have hacc := acc.isLt
  have hd := d.toNat_lt
  rw [shiftIn_eq_ofNat, ← BitVec.toNat_inj, BitVec.toNat_ofNat, Nat.mod_eq_of_lt (by omega)]
  rfl

/-! ### RX_NEXT_BIT, case by case (R186 to R190) -/

section
variable {c : Bool} {s : State}

/-- RxStore once the engine has taken the bit in, which leaves RX_BASE and RX_IDX. -/
theorem rxStore_taken {v : Byte} {r : Rx} (hroom : s.rx.idx.toNat < 276) (hfits : s.rx.base.toNat + 276 ≤ 4294967296)
    (hidx : r.idx = s.rx.idx) (hbase : r.base = s.rx.base) :
    rxStore v { s with rx := r } =
      .ok ({ s with rx := r, mem := s.mem.write (s.rx.base.toNat + s.rx.idx.toNat) v }, true) := by
  rw [← hidx] at hroom
  rw [← hbase] at hfits
  rw [rxStore_room (s := { s with rx := r }) hroom hfits, hidx, hbase]

theorem rxNextBit_off (hmode : s.rx.mode = .off) : rxNextBit c s = .ok ({ s with rx := decodeBit c s.rx }, true) := by
  simp only [rxNextBit, hmode]

/-- The window is no flag. -/
theorem rxNextBit_hunt (hmode : s.rx.mode = .firstFlag) (hacc : shiftIn (decodedBit c s.rx) s.rx.acc ≠ Config.flag) :
    rxNextBit c s =
      .ok ({ s with rx := { decodeBit c s.rx with acc := shiftIn (decodedBit c s.rx) s.rx.acc } }, true) := by
  simp only [rxNextBit, hmode, firstFlagStep, accumulate_eq, decodeBit_acc, hacc, if_false]

/-- The window is a flag. -/
theorem rxNextBit_firstFlag (hmode : s.rx.mode = .firstFlag)
    (hacc : shiftIn (decodedBit c s.rx) s.rx.acc = Config.flag) (hroom : s.rx.idx.toNat < 276)
    (hfits : s.rx.base.toNat + 276 ≤ 4294967296) :
    rxNextBit c s = .ok ({ s with
      rx := { decodeBit c s.rx with acc := Config.flag, idx := 1, bitpos := 0, mode := .flags }
      mem := s.mem.write (s.rx.base.toNat + s.rx.idx.toNat) Config.flag }, true) := by
  simp only [rxNextBit, hmode, firstFlagStep, accumulate_eq, decodeBit_acc, hacc, if_true,
    rxStore_taken hroom hfits, decodeBit_idx, decodeBit_base, bind, Except.bind]

/-- A part of a byte, or a flag again. -/
theorem rxNextBit_flags (hmode : s.rx.mode = .flags)
    (hacc : s.rx.bitpos ≠ 7 ∨ shiftIn (decodedBit c s.rx) s.rx.acc = Config.flag) :
    rxNextBit c s = .ok ({ s with rx := { decodeBit c s.rx with
      acc := shiftIn (decodedBit c s.rx) s.rx.acc, bitpos := s.rx.bitpos + 1 } }, true) := by
  have hskip : ¬(s.rx.bitpos + 1 = 0 ∧ shiftIn (decodedBit c s.rx) s.rx.acc ≠ Config.flag) := by
    rwa [bitpos_add_one_eq_zero_iff, not_and_or, not_not]
  simp only [rxNextBit, hmode, flagsStep, accumulate_eq, decodeBit_acc, decodeBit_bitpos, hskip, if_false]

/-- The first byte that is no flag. -/
theorem rxNextBit_firstByte (hmode : s.rx.mode = .flags) (hpos : s.rx.bitpos = 7)
    (hacc : shiftIn (decodedBit c s.rx) s.rx.acc ≠ Config.flag) (hroom : s.rx.idx.toNat < 276)
    (hfits : s.rx.base.toNat + 276 ≤ 4294967296) :
    rxNextBit c s = .ok ({ s with
      rx := { decodeBit c s.rx with
        acc := shiftIn (decodedBit c s.rx) s.rx.acc, bitpos := 0, idx := 2, ones := 0, mode := .data }
      mem := s.mem.write (s.rx.base.toNat + s.rx.idx.toNat) (shiftIn (decodedBit c s.rx) s.rx.acc) }, true) := by
  simp only [rxNextBit, hmode, flagsStep, accumulate_eq, decodeBit_acc, decodeBit_bitpos, hpos,
    (bitpos_add_one_eq_zero_iff 7).2, hacc, ne_eq, not_false_eq_true, and_self, if_true,
    rxStore_taken hroom hfits, decodeBit_idx, decodeBit_base, bind, Except.bind]

/-- A stuffed zero. -/
theorem rxNextBit_stuffedZero (hmode : s.rx.mode = .data) (h5 : s.rx.ones = 5) (hd : decodedBit c s.rx = false) :
    rxNextBit c s = .ok ({ s with rx := { decodeBit c s.rx with ones := 0 } }, true) := by
  simp only [rxNextBit, hmode, rxDataStep, h5, rxCheckedStep, checkUnstuff_zero hd, if_true]

/-- The sixth one in a row, with room in the buffer. -/
theorem rxNextBit_closingFlag (hmode : s.rx.mode = .data) (h5 : s.rx.ones = 5) (hd : decodedBit c s.rx = true)
    (hroom : s.rx.idx.toNat < 276) (hfits : s.rx.base.toNat + 276 ≤ 4294967296) :
    rxNextBit c s = .ok ({ s with
      rx := { decodeBit c s.rx with mode := .off }
      mem := s.mem.write (s.rx.base.toNat + s.rx.idx.toNat) Config.flag }, false) := by
  simp only [rxNextBit, hmode, rxDataStep, h5, rxCheckedStep, checkUnstuff_one hd, Bool.false_eq_true, if_false,
    if_true, rxStore_taken (r := decodeBit c s.rx) hroom hfits rfl rfl, bind, Except.bind]

/-- A data bit within a byte. -/
theorem rxNextBit_dataBit (hmode : s.rx.mode = .data) (h5 : s.rx.ones ≠ 5) (hpos : s.rx.bitpos ≠ 7) :
    rxNextBit c s = .ok ({ s with rx := { decodeBit c s.rx with
      acc := shiftIn (decodedBit c s.rx) s.rx.acc
      ones := if decodedBit c s.rx then s.rx.ones + 1 else 0
      bitpos := s.rx.bitpos + 1 } }, true) := by
  have hnext : ¬s.rx.bitpos + 1 = 0 := mt (bitpos_add_one_eq_zero_iff _).1 hpos
  simp only [rxNextBit, hmode, rxDataStep, h5, rxPlainStep, accumulate_eq, decodeBit_acc, decodeBit_bitpos,
    decodeBit_ones, hnext, if_false]

/-- A data bit that completes a byte, with room in the buffer. -/
theorem rxNextBit_dataByte (hmode : s.rx.mode = .data) (h5 : s.rx.ones ≠ 5) (hpos : s.rx.bitpos = 7)
    (hroom : s.rx.idx.toNat < 276) (hfits : s.rx.base.toNat + 276 ≤ 4294967296) :
    rxNextBit c s = .ok ({ s with
      rx := { decodeBit c s.rx with
        acc := shiftIn (decodedBit c s.rx) s.rx.acc
        ones := if decodedBit c s.rx then s.rx.ones + 1 else 0
        bitpos := 0
        idx := s.rx.idx + 1 }
      mem := s.mem.write (s.rx.base.toNat + s.rx.idx.toNat) (shiftIn (decodedBit c s.rx) s.rx.acc) }, true) := by
  simp only [rxNextBit, hmode, rxDataStep, h5, rxPlainStep, accumulate_eq, decodeBit_acc, decodeBit_bitpos,
    decodeBit_ones, hpos, (bitpos_add_one_eq_zero_iff 7).2, if_true, if_false,
    rxStore_taken hroom hfits, decodeBit_idx, decodeBit_base, bind, Except.bind]

end

/-- RX_NEXT_BIT leaves the state and RES_RX as the case on the mode says. -/
theorem exec_rxNextBit_of_ok {c more : Bool} {s u : State} (h : rxNextBit c s = .ok (u, more)) :
    exec (.rxNextBit c) s = .next { u with resRx := more } :=
  exec_rxNextBit_eq h

/-- The memory left by a command that stores one byte, which it reads back at that byte's address alone. -/
theorem exists_mem_write {s : State} {o : Host.Outcome State Fault Refusal} {t : Memory → State} {a : Nat} {v : Byte}
    (hwf : Memory.wf s.mem = true) (h : o = .next (t (s.mem.write a v))) :
    ∃ m, o = .next (t m) ∧ m.read a = some v ∧ ∀ b, b ≠ a → m.read b = s.mem.read b :=
  ⟨_, h, Memory.read_write_same .., fun _ hb => Memory.read_write_ne hwf hb⟩

theorem bitpos_add_one_eq_ofNat (p : BitVec 3) : p + 1 = BitVec.ofNat 3 ((p.toNat + 1) % 8) :=
  BitVec.eq_of_toNat_eq (by simp)

theorem bitpos_eq_seven_iff (p : BitVec 3) : p = 7 ↔ p.toNat = 7 := (BitVec.toNat_inj (y := 7)).symm

/-! ### RX_NEXT_BIT, mode by mode -/

/-- Settles O42: in RX_OFF DecodeBit is all. -/
theorem rxNextBitWhenOff : Obligations.RxNextBitWhenOff :=
  fun _ _ hmode => exec_rxNextBit_of_ok (rxNextBit_off hmode)

/-- Settles O43: RX_IDX is 0, so the flag goes to index 0. -/
theorem rxNextBitHuntsTheFlag : Obligations.RxNextBitHuntsTheFlag := by
  intro c s hmode hinv hwf acc
  obtain ⟨-, -, hfits, -, hfirst, -, -⟩ := hinv
  obtain ⟨hidx, -⟩ := hfirst hmode
  have hflag : shiftIn (decodedBit c s.rx) s.rx.acc = Config.flag ↔ acc = 0x7E := shiftIn_eq_flag_iff ..
  refine ⟨fun hacc => ?_, fun hacc => ?_⟩
  · rw [← shiftIn_eq_ofNat]
    exact exec_rxNextBit_of_ok (rxNextBit_hunt hmode (mt hflag.1 hacc))
  · have hstep := rxNextBit_firstFlag hmode (hflag.2 hacc) (by omega) hfits
    rw [hidx] at hstep
    exact exists_mem_write hwf (exec_rxNextBit_of_ok hstep)

/-- Settles O44: RX_IDX is 1, so the byte goes to index 1. -/
theorem rxNextBitSkipsFlags : Obligations.RxNextBitSkipsFlags := by
  intro c s hmode hinv hwf acc r
  obtain ⟨-, -, hfits, -, -, hflags, -⟩ := hinv
  obtain ⟨hidx, -⟩ := hflags hmode
  have hflag : shiftIn (decodedBit c s.rx) s.rx.acc = Config.flag ↔ acc = 0x7E := shiftIn_eq_flag_iff ..
  have hr : r = { decodeBit c s.rx with acc := shiftIn (decodedBit c s.rx) s.rx.acc, bitpos := s.rx.bitpos + 1 } := by
    rw [shiftIn_eq_ofNat, bitpos_add_one_eq_ofNat]
  have hseven := bitpos_eq_seven_iff s.rx.bitpos
  rw [← shiftIn_eq_ofNat, hr]
  refine ⟨fun hskip => ?_, fun hpos hacc => ?_⟩
  · exact exec_rxNextBit_of_ok (rxNextBit_flags hmode (hskip.imp (mt hseven.1) hflag.2))
  have hstep := rxNextBit_firstByte hmode (hseven.2 hpos) (mt hflag.1 hacc) (by omega) hfits
  rw [hidx] at hstep
  simp only [hseven.2 hpos]
  exact exists_mem_write hwf (exec_rxNextBit_of_ok hstep)

/-- Settles O45, by CheckUnstuff's two cases. -/
theorem rxNextBitChecksStuffing : Obligations.RxNextBitChecksStuffing := by
  intro c s hmode hinv hwf h5
  obtain ⟨-, -, hfits, -⟩ := hinv
  refine ⟨fun hd => exec_rxNextBit_of_ok (rxNextBit_stuffedZero hmode h5 hd), fun hd hroom => ?_⟩
  exact exists_mem_write hwf (exec_rxNextBit_of_ok (rxNextBit_closingFlag hmode h5 hd hroom hfits))

/-- Settles O46: the bit completes a byte when it is the eighth. -/
theorem rxNextBitAssemblesBytes : Obligations.RxNextBitAssemblesBytes := by
  intro c s hmode hinv hwf h5 d acc r
  obtain ⟨-, -, hfits, -⟩ := hinv
  have hr : r = { decodeBit c s.rx with
      acc := shiftIn d s.rx.acc, ones := if d then s.rx.ones + 1 else 0, bitpos := s.rx.bitpos + 1 } := by
    rw [shiftIn_eq_ofNat, bitpos_add_one_eq_ofNat]
  have hidx : BitVec.ofNat 9 (s.rx.idx.toNat + 1) = s.rx.idx + 1 := BitVec.eq_of_toNat_eq (by simp)
  have hseven := bitpos_eq_seven_iff s.rx.bitpos
  rw [← shiftIn_eq_ofNat, hidx, hr]
  refine ⟨fun hpos => exec_rxNextBit_of_ok (rxNextBit_dataBit hmode h5 (mt hseven.1 hpos)), fun hpos hroom => ?_⟩
  have hstep := rxNextBit_dataByte (c := c) hmode h5 (hseven.2 hpos) hroom hfits
  simp only [hseven.2 hpos]
  exact exists_mem_write hwf (exec_rxNextBit_of_ok hstep)

end Sys2Proof.Machine
end

section
/-!
PROOFS. The end of a frame and the table of RX modes (spec/43_rx_engine.md R190, R192).
-/

namespace Sys2Proof.Machine

/-! ### A step, by the mode it starts in -/

/-- RxStore finds no room: the hunt starts over. -/
theorem rxStore_false {x : Byte} {s v : State} (h : rxStore x s = .ok (v, false)) :
    276 ≤ s.rx.idx.toNat ∧ v = { raiseError .rxOvf s with rx := rxReset s.rx } := by
  rcases rxStore_ok h with ⟨hfull, -, rfl⟩ | ⟨-, hstored, -⟩
  · exact ⟨hfull, rfl⟩
  · cases hstored

theorem checkUnstuff_mode (c : Bool) (r : Rx) : (checkUnstuff c r).1.mode = r.mode := by
  unfold checkUnstuff
  split <;> rfl

theorem checkUnstuff_snd (c : Bool) (r : Rx) : (checkUnstuff c r).2 = !decodedBit c r := by
  cases hd : decodedBit c r with
  | false => rw [checkUnstuff_zero hd]; rfl
  | true => rw [checkUnstuff_one hd]; rfl

/-- In RX_DATA_MODE the receiver stays there, ends the frame, or finds the buffer full; only the end of the frame
returns 0. -/
theorem rxNextBit_data_mode {c more : Bool} {s u : State} (hmode : s.rx.mode = .data)
    (h : rxNextBit c s = .ok (u, more)) :
    (u.rx.mode = .data ∧ more = true) ∨
    (u.rx.mode = .off ∧ more = false ∧ s.rx.ones = 5 ∧ decodedBit c s.rx = true ∧ s.rx.idx.toNat < 276) ∨
    (u.rx.mode = .firstFlag ∧ more = true ∧ 276 ≤ s.rx.idx.toNat ∧ u.status.rxOvf = true) := by
  rcases rxNextBit_ok h with ⟨hm, -⟩ | ⟨hm, -⟩ | ⟨hm, -⟩ | ⟨-, h5, h⟩ | ⟨-, -, h⟩
  · cases hmode.symm.trans hm
  · cases hmode.symm.trans hm
  · cases hmode.symm.trans hm
  · have hkept := (checkUnstuff_mode c s.rx).trans hmode
    have hidx := checkUnstuff_idx c s.rx
    have hbit := checkUnstuff_snd c s.rx
    obtain ⟨-, rfl, rfl⟩ | ⟨-, rfl, hu⟩ | ⟨hone, rfl, v, hv, rfl⟩ := rxCheckedStep_ok h
    · exact .inl ⟨hkept, rfl⟩
    · obtain ⟨hfull, rfl⟩ := rxStore_false hu
      exact .inr (.inr ⟨rfl, rfl, hidx ▸ hfull, rfl⟩)
    · obtain ⟨hroom, -⟩ := rxStore_true_rx hv
      exact .inr (.inl ⟨rfl, rfl, h5, by simpa using hbit.symm.trans hone, hidx ▸ hroom⟩)
  · obtain ⟨rfl, ⟨-, rfl⟩ | ⟨-, hu⟩ | ⟨-, v, hv, rfl⟩⟩ := rxPlainStep_ok h
    · exact .inl ⟨hmode, rfl⟩
    · obtain ⟨hfull, rfl⟩ := rxStore_false hu
      exact .inr (.inr ⟨rfl, rfl, hfull, rfl⟩)
    · obtain ⟨-, hrx⟩ := rxStore_true_rx hv
      exact .inl ⟨(congrArg Rx.mode hrx).trans hmode, rfl⟩

theorem rxNextBit_more {c more : Bool} {s u : State} (hmode : s.rx.mode ≠ .data) (h : rxNextBit c s = .ok (u, more)) :
    more = true := by
  rcases rxNextBit_ok h with ⟨-, hmore, -⟩ | ⟨-, h⟩ | ⟨-, h⟩ | ⟨hm, -⟩ | ⟨hm, -⟩
  · exact hmore
  · exact (firstFlagStep_ok h).1
  · exact (flagsStep_ok h).1
  · exact absurd hm hmode
  · exact absurd hm hmode

/-- Settles O50: only a step in RX_DATA_MODE can return 0. -/
theorem rxNextBitReturnsZeroOnlyAtFrameEnd : Obligations.RxNextBitReturnsZeroOnlyAtFrameEnd := by
  intro s t c h
  obtain ⟨u, more, hu, rfl⟩ := exec_rxNextBit_next h
  rw [setResRx_resRx, setResRx_rx]
  by_cases hmode : s.rx.mode = .data
  · rcases rxNextBit_data_mode hmode hu with ⟨hm, rfl⟩ | ⟨hm, rfl, -⟩ | ⟨hm, rfl, -⟩
    · simp [hm]
    · simp [hmode, hm]
    · simp [hm]
  · simp [hmode, rxNextBit_more hmode hu]

/-! ### The table -/

/-- The rows of R192's table that RX_NEXT_BIT makes. -/
theorem rxNextBit_mode_ne {c more : Bool} {s u : State} (h : rxNextBit c s = .ok (u, more)) (hinv : RxInv s.rx)
    (hne : u.rx.mode ≠ s.rx.mode) :
    (s.rx.mode = .firstFlag ∧ u.rx.mode = .flags ∧ u.rx.acc = 0x7E ∧ u.rx.idx = 1) ∨
    (s.rx.mode = .flags ∧ u.rx.mode = .data ∧ s.rx.bitpos = 7 ∧ u.rx.acc ≠ 0x7E ∧ u.rx.idx = 2 ∧ u.rx.ones = 0) ∨
    (s.rx.mode = .data ∧ u.rx.mode = .off ∧ s.rx.ones = 5 ∧ decodedBit c s.rx = true ∧ s.rx.idx.toNat < 276 ∧
      more = false) ∨
    (s.rx.mode = .data ∧ u.rx.mode = .firstFlag ∧ s.rx.idx = 276 ∧ u.status.rxOvf = true) := by
  obtain ⟨-, hidx, hfits, -, hfirst, hflags, -⟩ := hinv
  cases hmode : s.rx.mode with
  | off =>
    cases (rxNextBit_off hmode).symm.trans h
    exact absurd rfl hne
  | firstFlag =>
    obtain ⟨hzero, -⟩ := hfirst hmode
    by_cases hacc : shiftIn (decodedBit c s.rx) s.rx.acc = Config.flag
    · cases (rxNextBit_firstFlag hmode hacc (by omega) hfits).symm.trans h
      exact .inl ⟨rfl, rfl, rfl, rfl⟩
    · cases (rxNextBit_hunt hmode hacc).symm.trans h
      exact absurd rfl hne
  | flags =>
    obtain ⟨hone, -⟩ := hflags hmode
    by_cases hbyte : s.rx.bitpos ≠ 7 ∨ shiftIn (decodedBit c s.rx) s.rx.acc = Config.flag
    · cases (rxNextBit_flags hmode hbyte).symm.trans h
      exact absurd rfl hne
    · obtain ⟨hpos, hacc⟩ := not_or.1 hbyte
      cases (rxNextBit_firstByte hmode (not_not.1 hpos) hacc (by omega) hfits).symm.trans h
      exact .inr (.inl ⟨rfl, rfl, not_not.1 hpos, hacc, rfl, rfl⟩)
  | data =>
    rcases rxNextBit_data_mode hmode h with ⟨hm, -⟩ | ⟨hm, hmore, h5, hd, hroom⟩ | ⟨hm, -, hfull, hovf⟩
    · exact absurd (hm.trans hmode.symm) hne
    · exact .inr (.inr (.inl ⟨rfl, hm, h5, hd, hroom, hmore⟩))
    · exact .inr (.inr (.inr ⟨rfl, hm, BitVec.eq_of_toNat_eq (Nat.le_antisymm hidx hfull), hovf⟩))

/-- Settles O49: of the commands that reach the receive engine only RX_INIT and RX_NEXT_BIT change RX_MODE. -/
theorem rxTransitionTable : Obligations.RxTransitionTable := by
  intro s t i h hinv hne
  rcases command_families i with hi | ⟨b, hi⟩ | ⟨c, hi⟩
  · exact absurd (congrArg Rx.mode (coreCommand_keeps_engines hi h).2) hne
  · exact absurd (congrArg Rx.mode (txCommand_keeps_rx hi h)) hne
  · simp only [List.mem_cons, List.not_mem_nil, or_false] at hi
    rcases hi with rfl | rfl | rfl | rfl
    · rcases exec_rxInit_next h with ⟨-, rfl⟩ | ⟨-, rfl⟩
      · exact absurd (congrArg Rx.mode (raiseError_rx .argErr s)) hne
      · exact .inl ⟨rfl, rfl⟩
    · cases h
      exact absurd rfl hne
    · cases h
      exact absurd (checkUnstuff_mode c s.rx) hne
    · obtain ⟨u, more, hu, rfl⟩ := exec_rxNextBit_next h
      have hrow := rxNextBit_mode_ne hu hinv hne
      exact .inr ⟨c, rfl, hrow⟩

end Sys2Proof.Machine
end

section
/-!
PROOFS. The descrambler (spec/43_rx_engine.md R182, R196). Whatever channel bits a receiver takes in, a transmitter with
the same TX_NRZI and TX_SCR sends them for the bits it decodes, so the scrambler's law is the descrambler's. With other
registers the two agree in one more bit of the scrambler register after each step.
-/

namespace Sys2Proof.Machine

/-! ### Equal registers -/

/-- RX_NRZI and RX_SCR hold what TX_NRZI and TX_SCR hold. -/
def InStep (t : Tx) (r : Rx) : Prop := r.nrzi = t.nrzi ∧ r.scr = t.scr

theorem exists_transmitter_inStep (r : Rx) : ∃ t, InStep t r :=
  ⟨{ Tx.reset with nrzi := r.nrzi, scr := r.scr }, rfl, rfl⟩

theorem exists_receiver_inStep (t : Tx) : ∃ r, InStep t r :=
  ⟨{ Rx.reset with nrzi := t.nrzi, scr := t.scr }, rfl, rfl⟩

/-- The transmitter's line bit of a logical bit is decoded as that bit, at the transmitter's level. -/
theorem decodeBit_line {t : Tx} {r : Rx} (h : InStep t r) (b : Bool) :
    decodedBit (emitBit b t).line r = b ∧ InStep (emitBit b t) (decodeBit (emitBit b t).line r) := by
  obtain ⟨hnrzi, hscr⟩ := h
  have hlevel : descramble (emitBit b t).line r = (emitBit b t).nrzi := by
    rw [descramble, emitBit_line, hscr, Bool.xor_assoc, Bool.xor_self, Bool.xor_false, emitBit_nrzi]
  have hback : ∀ n b : Bool, (nrziEncode n b == n) = b := by decide
  refine ⟨?_, hlevel, ?_⟩
  · rw [decodedBit, hlevel, hnrzi, emitBit_nrzi, hback]
  · rw [decodeBit_scr, hscr, emitBit_scr]

/-- The logical bit decoded from a channel bit is the one the transmitter sends it for. -/
theorem emitBit_decodedBit {t : Tx} {r : Rx} (h : InStep t r) (c : Bool) :
    (emitBit (decodedBit c r) t).line = c ∧ InStep (emitBit (decodedBit c r) t) (decodeBit c r) := by
  obtain ⟨hnrzi, hscr⟩ := h
  have hlevel : (emitBit (decodedBit c r) t).nrzi = descramble c r := by
    have hsame : ∀ n d : Bool, nrziEncode n (d == n) = d := by decide
    rw [emitBit_nrzi, decodedBit, hnrzi, hsame]
  have hline : (emitBit (decodedBit c r) t).line = c := by
    rw [emitBit_line, ← emitBit_nrzi, hlevel, descramble, hscr, Bool.xor_assoc, Bool.xor_self, Bool.xor_false]
  refine ⟨hline, hlevel.symm, ?_⟩
  rw [emitBit_scr, hline, decodeBit_scr, hscr]

theorem length_decodedBits (r : Rx) (cs : List Bool) : (decodedBits r cs).length = cs.length := by
  induction cs generalizing r with
  | nil => rfl
  | cons c cs ih => exact congrArg Nat.succ (ih _)

theorem emit_decodedBits {t : Tx} {r : Rx} (h : InStep t r) (cs : List Bool) :
    lineBits t (decodedBits r cs) = cs ∧ levelBits t (decodedBits r cs) = descrambledBits r cs := by
  induction cs generalizing t r with
  | nil => exact ⟨rfl, rfl⟩
  | cons c cs ih =>
    obtain ⟨hline, hnext⟩ := emitBit_decodedBit h c
    obtain ⟨hlines, hlevels⟩ := ih hnext
    exact ⟨congrArg₂ List.cons hline hlines, congrArg₂ List.cons hnext.1.symm hlevels⟩

/-- Settles O51: the scrambler's law, for the transmitter that sends these channel bits. -/
theorem descramblerLaw : Obligations.DescramblerLaw := by
  intro r cs k hk
  obtain ⟨t, ht⟩ := exists_transmitter_inStep r
  obtain ⟨hlines, hlevels⟩ := emit_decodedBits ht cs
  have hlaw := scramblerLaw t (decodedBits r cs) k (hk.trans_eq (length_decodedBits r cs).symm)
  have hsolve : ∀ y d p q : Bool, y = (d ^^ p ^^ q) → d = (y ^^ p ^^ q) := by decide
  simp only [hlines, hlevels, ← ht.2] at hlaw
  exact hsolve _ _ _ _ hlaw

/-! ### Any registers -/

theorem length_lineBits (t : Tx) (bs : List Bool) : (lineBits t bs).length = bs.length := by
  induction bs generalizing t with
  | nil => rfl
  | cons b bs ih => exact congrArg Nat.succ (ih _)

theorem decode_lineBits {t : Tx} {r : Rx} (h : InStep t r) (bs : List Bool) :
    decodedBits r (lineBits t bs) = bs ∧ descrambledBits r (lineBits t bs) = levelBits t bs := by
  induction bs generalizing t r with
  | nil => exact ⟨rfl, rfl⟩
  | cons b bs ih =>
    obtain ⟨hbit, hnext⟩ := decodeBit_line h b
    obtain ⟨hbits, hlevels⟩ := ih hnext
    exact ⟨congrArg₂ List.cons hbit hbits, congrArg₂ List.cons hnext.1 hlevels⟩

/-- From the 18th bit on the taps hold bits of the run on both sides. -/
theorem descrambledBits_lineBits (t : Tx) (r : Rx) (bs : List Bool) {k : Nat} (hk : k < bs.length) (h17 : 17 ≤ k) :
    (descrambledBits r (lineBits t bs)).getD k false = (levelBits t bs).getD k false := by
  have hd := descramblerLaw r (lineBits t bs) k (hk.trans_eq (length_lineBits t bs).symm)
  have hy := scramblerLaw t bs k hk
  have hcancel : ∀ d y n p q : Bool, d = (y ^^ p ^^ q) → y = (n ^^ p ^^ q) → d = n := by decide
  simp only [h17, show 12 ≤ k by omega, if_true] at hd hy
  exact hcancel _ _ _ _ _ hd hy

theorem decodedBits_getD_succ (r : Rx) (cs : List Bool) {k : Nat} (hk : k + 1 < cs.length) :
    (decodedBits r cs).getD (k + 1) false =
      ((descrambledBits r cs).getD (k + 1) false == (descrambledBits r cs).getD k false) := by
  induction k generalizing r cs with
  | zero =>
    match cs, hk with
    | _ :: _ :: _, _ => rfl
  | succ k ih =>
    match cs, hk with
    | c :: cs, hk => exact ih (decodeBit c r) cs (Nat.lt_of_succ_lt_succ hk)

/-- A logical bit is 1 when the level stays: what a receiver in step decodes. -/
theorem getD_succ_eq_levelBits (t : Tx) (bs : List Bool) {k : Nat} (hk : k + 1 < bs.length) :
    bs.getD (k + 1) false = ((levelBits t bs).getD (k + 1) false == (levelBits t bs).getD k false) := by
  obtain ⟨r, hr⟩ := exists_receiver_inStep t
  obtain ⟨hbits, hlevels⟩ := decode_lineBits hr bs
  have hdecoded := decodedBits_getD_succ r (lineBits t bs) (hk.trans_eq (length_lineBits t bs).symm)
  rwa [hbits, hlevels] at hdecoded

/-- The scrambler registers agree in bits 0 to `n - 1`. -/
def AgreeBelow (n : Nat) (x y : BitVec 17) : Prop := ∀ i < n, x.getLsbD i = y.getLsbD i

theorem AgreeBelow.after_shift {n : Nat} {x y : BitVec 17} (h : AgreeBelow n x y) (c : Bool) :
    AgreeBelow (n + 1) (scramblerShift x c) (scramblerShift y c) := by
  intro i hi
  rw [scramblerShift_eq_shiftConcat, scramblerShift_eq_shiftConcat, BitVec.getLsbD_shiftConcat,
    BitVec.getLsbD_shiftConcat]
  cases i with
  | zero => rfl
  | succ i => rw [if_neg i.succ_ne_zero, if_neg i.succ_ne_zero, Nat.add_sub_cancel, h i (Nat.lt_of_succ_lt_succ hi)]

theorem AgreeBelow.after_lineBits {n : Nat} {t : Tx} {r : Rx} (h : AgreeBelow n r.scr t.scr) (bs : List Bool) :
    AgreeBelow (n + bs.length) (decodeAll r (lineBits t bs)).scr (emitAll t bs).scr := by
  induction bs generalizing n t r with
  | nil => exact h
  | cons b bs ih =>
    rw [List.length_cons, Nat.add_comm bs.length, ← Nat.add_assoc]
    exact ih (h.after_shift _)

/-- Settles O52: from the 18th bit on both laws take the same line bits, two levels in a row give a logical bit, and the
registers agree in one more bit with each step. -/
theorem receiverLocksWithoutSharedSeed : Obligations.ReceiverLocksWithoutSharedSeed := by
  intro t r bs k hk
  refine ⟨descrambledBits_lineBits t r bs hk, fun h18 => ?_, fun h17 => ?_⟩
  · obtain ⟨j, rfl⟩ := Nat.exists_eq_add_of_le' (show 1 ≤ k by omega)
    rw [decodedBits_getD_succ r _ (hk.trans_eq (length_lineBits t bs).symm),
      descrambledBits_lineBits t r bs hk (by omega), descrambledBits_lineBits t r bs (by omega) (by omega), ← getD_succ_eq_levelBits t bs hk]
  · have hnone : AgreeBelow 0 r.scr t.scr := fun i hi => absurd hi i.not_lt_zero
    exact BitVec.eq_of_getLsbD_eq fun i hi => hnone.after_lineBits bs i (by omega)

end Sys2Proof.Machine
end

section
/-!
PROOFS. The receiver's part of a loopback (spec/43_rx_engine.md R186 to R191): what it does with a list of logical bits,
whatever channel bits carry them, said backwards from what holds after the last.
-/

namespace Sys2Proof.Machine

/-! ### A byte being assembled (R184) -/

/-- The top `p` bits of RX_ACC are the low `p` bits of `x`. -/
def Assembled (x : Byte) (p : Nat) (acc : Byte) : Prop := ∀ i < p, acc.getLsbD (8 - p + i) = x.getLsbD i

theorem assembled_zero (x acc : Byte) : Assembled x 0 acc := fun _ hi => absurd hi (Nat.not_lt_zero _)

theorem Assembled.next {x acc : Byte} {p : Nat} (h : Assembled x p acc) (hp : p < 8) :
    Assembled x (p + 1) (shiftIn (x.getLsbD p) acc) := by
  intro i hi
  rw [getLsbD_shiftIn _ _ (by omega)]
  by_cases hlast : i = p
  · rw [if_pos (by omega), hlast]
  · rw [if_neg (by omega), ← h i (by omega)]
    congr 1
    omega

theorem Assembled.eq_of_last {x acc : Byte} (h : Assembled x 7 acc) : shiftIn (x.getLsbD 7) acc = x := by
  have hall := h.next (by decide)
  refine BitVec.eq_of_getLsbD_eq fun i hi => ?_
  simpa using hall i hi

/-! ### The bytes stored so far (R191) -/

theorem writeSeq_concat {v : Byte} : ∀ {vs : List Byte} {m m' : Memory} {a : Nat}, writeSeq m a vs = .ok m' →
    a + vs.length < 4294967296 → writeSeq m a (vs ++ [v]) = .ok (m'.write (a + vs.length) v)
  | [], m, m', a, h, ha => by
    cases h
    rw [List.length_nil, Nat.add_zero] at *
    rw [List.nil_append, writeSeq, busWrite_lt ha]
    rfl
  | w :: vs, m, m', a, h, ha => by
    simp only [List.length_cons] at ha ⊢
    simp only [writeSeq, List.cons_append, bind, Except.bind, busWrite_lt (show a < 4294967296 by omega)] at h ⊢
    rw [writeSeq_concat h (by omega), Nat.add_right_comm, ← Nat.add_assoc]

/-- `m` is `m0` with the first `n` bytes of `frame` stored from `base` on. -/
def Stored (m0 : Memory) (base : Word) (frame : List Byte) (n : Nat) (m : Memory) : Prop :=
  writeSeq m0 base.toNat (frame.take n) = .ok m

theorem Stored.next {m0 m : Memory} {base : Word} {frame : List Byte} {n : Nat} {v : Byte}
    (h : Stored m0 base frame n m) (hv : frame[n]? = some v) (hfits : base.toNat + n < 4294967296) :
    Stored m0 base frame (n + 1) (m.write (base.toNat + n) v) := by
  obtain ⟨hn, -⟩ := List.getElem?_eq_some_iff.1 hv
  have hlen : (frame.take n).length = n := List.length_take_of_le hn.le
  have hnext := writeSeq_concat (v := v) h (by rwa [hlen])
  rwa [hlen, ← Option.toList_some (a := v), ← hv, ← List.take_add_one] at hnext

theorem Stored.read_outside {m0 m : Memory} {base : Word} {frame : List Byte} {n b : Nat} (hwf : m0.wf = true)
    (h : Stored m0 base frame n m) (hb : b < base.toNat ∨ base.toNat + frame.length ≤ b) : m.read b = m0.read b := by
  obtain ⟨-, -, hread⟩ := writeSeq_ok hwf h
  have hlen : (frame.take n).length ≤ frame.length := List.length_take_le' ..
  rw [hread, if_neg (by omega)]

theorem Stored.read_frame {m0 m : Memory} {base : Word} {frame : List Byte} {k : Nat} {x : Byte} (hwf : m0.wf = true)
    (h : Stored m0 base frame frame.length m) (hx : frame[k]? = some x) : m.read (base.toNat + k) = some x := by
  obtain ⟨-, -, hread⟩ := writeSeq_ok hwf h
  obtain ⟨hk, -⟩ := List.getElem?_eq_some_iff.1 hx
  rw [List.take_length] at hread
  rw [hread, if_pos (by omega), Nat.add_sub_cancel_left, hx]

/-! ### What the receiver takes in -/

/-- The fields DecodeBit writes. -/
def Rx.lineState (r : Rx) : Bool × BitVec 17 := (r.nrzi, r.scr)

/-- From engine `r` with `n` bytes of `frame` stored, RX_NEXT_BIT called for channel bits that decode to the first
components of a list returns the second ones, stores only the bytes of `frame` in their places, and leaves an engine and a
count of stored bytes that `ends` holds of. -/
def RxTakes (m0 : Memory) (base : Word) (frame : List Byte) (ends : Rx → Nat → Prop) :
    List (Bool × Bool) → Rx → Nat → Prop
  | [], r, n => ends r n
  | (d, more) :: ps, r, n => ∀ c, decodedBit c r = d → ∃ r' n',
      (∀ s : State, s.rx = r → Stored m0 base frame n s.mem → ∃ m, Stored m0 base frame n' m ∧
        rxNextBit c s = .ok ({ s with rx := r', mem := m }, more)) ∧
      r'.lineState = (decodeBit c r).lineState ∧ RxTakes m0 base frame ends ps r' n'

/-- Bits for which RX_NEXT_BIT returns 1. -/
def receiving (bs : List Bool) : List (Bool × Bool) := bs.map fun b => (b, true)

section
variable {m0 : Memory} {base : Word} {frame : List Byte} {ends : Rx → Nat → Prop} {ps : List (Bool × Bool)} {n : Nat}
  {d more : Bool} {r : Rx}

/-- A step that leaves memory alone. -/
theorem RxTakes.quiet (next : Bool → Rx)
    (hstep : ∀ c (s : State), s.rx = r → decodedBit c r = d → rxNextBit c s = .ok ({ s with rx := next c }, more))
    (hline : ∀ c, (next c).lineState = (decodeBit c r).lineState)
    (hrest : ∀ c, RxTakes m0 base frame ends ps (next c) n) : RxTakes m0 base frame ends ((d, more) :: ps) r n :=
  fun c hd => ⟨next c, n, fun s hs hmem => ⟨s.mem, hmem, hstep c s hs hd⟩, hline c, hrest c⟩

/-- A step that stores the next byte of the frame. -/
theorem RxTakes.store {v : Byte} (next : Bool → Rx) (hv : frame[n]? = some v) (hfits : base.toNat + n < 4294967296)
    (hstep : ∀ c (s : State), s.rx = r → decodedBit c r = d →
      rxNextBit c s = .ok ({ s with rx := next c, mem := s.mem.write (base.toNat + n) v }, more))
    (hline : ∀ c, (next c).lineState = (decodeBit c r).lineState)
    (hrest : ∀ c, RxTakes m0 base frame ends ps (next c) (n + 1)) :
    RxTakes m0 base frame ends ((d, more) :: ps) r n :=
  fun c hd => ⟨next c, n + 1, fun s hs hmem => ⟨_, hmem.next hv hfits, hstep c s hs hd⟩, hline c, hrest c⟩

end

/-! ### The receiver's steps through a frame -/

/-- An engine with `n` bytes in its buffer at `base`, at bit `p` of a byte, after `c` ones; the other fields are those
of `l`. -/
def Rx.at (base : Word) (mode : RxMode) (n p c : Nat) (acc : Byte) (l : Rx) : Rx :=
  { l with mode := mode, base := base, idx := BitVec.ofNat 9 n, bitpos := BitVec.ofNat 3 p, ones := BitVec.ofNat 3 c,
           acc := acc }

section
variable {m0 : Memory} {base : Word} {frame : List Byte} {ends : Rx → Nat → Prop} {ps : List (Bool × Bool)}
  {n p c : Nat} {acc x : Byte} {d : Bool}

theorem Rx.at_idx_toNat (hn : n < 276) (mode : RxMode) (l : Rx) : (Rx.at base mode n p c acc l).idx.toNat = n :=
  Nat.mod_eq_of_lt (by omega)

theorem Rx.at_ones_ne_five (hc : c < 5) (mode : RxMode) (l : Rx) : (Rx.at base mode n p c acc l).ones ≠ 5 := fun h => by
  have := congrArg BitVec.toNat h
  simp [Rx.at] at this
  omega

theorem Rx.at_bitpos_eq_seven_iff (mode : RxMode) (l : Rx) : (Rx.at base mode n p c acc l).bitpos = 7 ↔ p % 8 = 7 := by
  rw [bitpos_eq_seven_iff]
  rfl

theorem Rx.at_bitpos_succ (mode : RxMode) (l : Rx) :
    (Rx.at base mode n p c acc l).bitpos + 1 = BitVec.ofNat 3 (p + 1) :=
  (BitVec.ofNat_add p 1).symm

theorem Rx.at_idx_succ (mode : RxMode) (l : Rx) : (Rx.at base mode n p c acc l).idx + 1 = BitVec.ofNat 9 (n + 1) :=
  (BitVec.ofNat_add n 1).symm

theorem Rx.at_countOnes (mode : RxMode) (l : Rx) :
    (if d then (Rx.at base mode n p c acc l).ones + 1 else 0) = BitVec.ofNat 3 (if d then c + 1 else 0) := by
  cases d with
  | false => rfl
  | true => exact (BitVec.ofNat_add c 1).symm

/-- The window is no flag. -/
theorem RxTakes.hunt (hacc : shiftIn d acc ≠ Config.flag)
    (h : ∀ l, RxTakes m0 base frame ends ps (.at base .firstFlag 0 0 0 (shiftIn d acc) l) 0) (l : Rx) :
    RxTakes m0 base frame ends ((d, true) :: ps) (.at base .firstFlag 0 0 0 acc l) 0 := by
  refine quiet (fun c => .at base .firstFlag 0 0 0 (shiftIn d acc) (decodeBit c l)) (fun c s hs hd => ?_) (fun _ => rfl)
    fun c => h _
  subst hd
  rw [rxNextBit_hunt (congrArg Rx.mode hs) (by rwa [hs]), hs]
  rfl

/-- A part of a byte, or a flag again. -/
theorem RxTakes.flagsBit (hacc : p % 8 ≠ 7 ∨ shiftIn d acc = Config.flag)
    (h : ∀ l, RxTakes m0 base frame ends ps (.at base .flags 1 (p + 1) 0 (shiftIn d acc) l) 1) (l : Rx) :
    RxTakes m0 base frame ends ((d, true) :: ps) (.at base .flags 1 p 0 acc l) 1 := by
  refine quiet (fun c => .at base .flags 1 (p + 1) 0 (shiftIn d acc) (decodeBit c l)) (fun c s hs hd => ?_)
    (fun _ => rfl) fun c => h _
  subst hd
  rw [rxNextBit_flags (congrArg Rx.mode hs) (by rwa [hs, Ne, Rx.at_bitpos_eq_seven_iff]), hs, Rx.at_bitpos_succ]
  rfl

/-- A stuffed zero. -/
theorem RxTakes.stuffedZero (h : ∀ l, RxTakes m0 base frame ends ps (.at base .data n p 0 acc l) n) (l : Rx) :
    RxTakes m0 base frame ends ((false, true) :: ps) (.at base .data n p 5 acc l) n := by
  refine quiet (fun c => .at base .data n p 0 acc (decodeBit c l)) (fun c s hs hd => ?_) (fun _ => rfl) fun c => h _
  rw [rxNextBit_stuffedZero (congrArg Rx.mode hs) (congrArg Rx.ones hs) (by rwa [hs]), hs]
  rfl

/-- A data bit within a byte. -/
theorem RxTakes.dataBit (hc : c < 5) (hp : p % 8 ≠ 7)
    (h : ∀ l, RxTakes m0 base frame ends ps (.at base .data n (p + 1) (if d then c + 1 else 0) (shiftIn d acc) l) n)
    (l : Rx) : RxTakes m0 base frame ends ((d, true) :: ps) (.at base .data n p c acc l) n := by
  refine quiet (fun b => .at base .data n (p + 1) (if d then c + 1 else 0) (shiftIn d acc) (decodeBit b l))
    (fun b s hs hd => ?_) (fun _ => rfl) fun b => h _
  have h5 : s.rx.ones ≠ 5 := by rw [hs]; exact Rx.at_ones_ne_five hc _ l
  rw [rxNextBit_dataBit (congrArg Rx.mode hs) h5 (by rwa [hs, Ne, Rx.at_bitpos_eq_seven_iff]), hs, hd,
    Rx.at_bitpos_succ, Rx.at_countOnes]
  rfl

/-- In RX_OFF, where RX_IDX stays. -/
theorem RxTakes.off {bs : List Bool} {r : Rx} (hmode : r.mode = .off)
    (h : ∀ r', r'.mode = .off → r'.idx = r.idx → ends r' n) : RxTakes m0 base frame ends (receiving bs) r n := by
  induction bs generalizing r with
  | nil => exact h r hmode rfl
  | cons b bs ih =>
    refine quiet (fun c => decodeBit c r) (fun c s hs _ => ?_) (fun _ => rfl) fun c => ih hmode h
    rw [rxNextBit_off (by rwa [hs]), hs]

section
variable (hfits : base.toNat + 276 ≤ 4294967296)
include hfits

/-- The window is a flag. -/
theorem RxTakes.firstFlag (hacc : shiftIn d acc = Config.flag) (hv : frame[0]? = some Config.flag)
    (h : ∀ l, RxTakes m0 base frame ends ps (.at base .flags 1 0 0 Config.flag l) 1) (l : Rx) :
    RxTakes m0 base frame ends ((d, true) :: ps) (.at base .firstFlag 0 0 0 acc l) 0 := by
  refine store (fun c => .at base .flags 1 0 0 Config.flag (decodeBit c l)) hv (by omega) (fun c s hs hd => ?_)
    (fun _ => rfl) fun c => h _
  subst hd
  rw [rxNextBit_firstFlag (congrArg Rx.mode hs) (by rwa [hs]) (by rw [hs, Rx.at_idx_toNat (by decide)]; decide)
    (by rwa [hs]), hs]
  rfl

/-- The first byte that is no flag. -/
theorem RxTakes.firstByte (hp : p % 8 = 7) (hacc : shiftIn d acc ≠ Config.flag) (hv : frame[1]? = some (shiftIn d acc))
    (h : ∀ l, RxTakes m0 base frame ends ps (.at base .data 2 0 0 (shiftIn d acc) l) 2) (l : Rx) :
    RxTakes m0 base frame ends ((d, true) :: ps) (.at base .flags 1 p 0 acc l) 1 := by
  refine store (fun c => .at base .data 2 0 0 (shiftIn d acc) (decodeBit c l)) hv (by omega) (fun c s hs hd => ?_)
    (fun _ => rfl) fun c => h _
  subst hd
  rw [rxNextBit_firstByte (congrArg Rx.mode hs) (by rwa [hs, Rx.at_bitpos_eq_seven_iff]) (by rwa [hs])
    (by rw [hs, Rx.at_idx_toNat (by decide)]; decide) (by rwa [hs]), hs]
  rfl

variable (hframe : frame.length ≤ 276)
include hframe

/-- A data bit that completes a byte. -/
theorem RxTakes.dataByte (hc : c < 5) (hp : p % 8 = 7) (hv : frame[n]? = some (shiftIn d acc))
    (h : ∀ l, RxTakes m0 base frame ends ps
      (.at base .data (n + 1) (p + 1) (if d then c + 1 else 0) (shiftIn d acc) l) (n + 1)) (l : Rx) :
    RxTakes m0 base frame ends ((d, true) :: ps) (.at base .data n p c acc l) n := by
  obtain ⟨hn, -⟩ := List.getElem?_eq_some_iff.1 hv
  refine store (fun b => .at base .data (n + 1) (p + 1) (if d then c + 1 else 0) (shiftIn d acc) (decodeBit b l)) hv
    (by omega) (fun b s hs hd => ?_) (fun _ => rfl) fun b => h _
  have h5 : s.rx.ones ≠ 5 := by rw [hs]; exact Rx.at_ones_ne_five hc _ l
  have hidx : (Rx.at base .data n p c acc l).idx.toNat = n := Rx.at_idx_toNat (by omega) _ l
  have hpos : 0 = BitVec.ofNat 3 (p + 1) := BitVec.eq_of_toNat_eq (by simp; omega)
  rw [rxNextBit_dataByte (congrArg Rx.mode hs) h5 (by rwa [hs, Rx.at_bitpos_eq_seven_iff])
    (by rw [hs]; omega) (by rwa [hs]), hs, hd, hidx, Rx.at_idx_succ, Rx.at_countOnes, hpos]
  rfl

/-- The closing flag, cut short at its seventh bit. -/
theorem RxTakes.closingFlag (hv : frame[n]? = some Config.flag)
    (h : ∀ r, r.mode = .off → r.idx.toNat = n → RxTakes m0 base frame ends ps r (n + 1)) (l : Rx) :
    RxTakes m0 base frame ends ((true, false) :: ps) (.at base .data n p 5 acc l) n := by
  obtain ⟨hn, -⟩ := List.getElem?_eq_some_iff.1 hv
  have hidx : (Rx.at base .data n p 5 acc l).idx.toNat = n := Rx.at_idx_toNat (by omega) _ l
  refine store (fun c => .at base .off n p 5 acc (decodeBit c l)) hv (by omega) (fun c s hs hd => ?_) (fun _ => rfl)
    fun c => h _ rfl (Rx.at_idx_toNat (by omega) _ _)
  rw [rxNextBit_closingFlag (congrArg Rx.mode hs) (congrArg Rx.ones hs) (by rwa [hs]) (by rw [hs]; omega) (by rwa [hs]),
    hs, hidx]
  rfl

end

end

end Sys2Proof.Machine
end

section
/-!
PROOFS. What the receiver takes in of a whole frame (spec/43_rx_engine.md R186 to R189, R199): the preamble, the byte
that starts the data uncounted, the stuffed rest, and the closing flag with what follows it.
-/

namespace Sys2Proof.Machine

/-! ### Bits the stuffing passes by (R199) -/

/-- How many ones have gone before, after bits that follow `c` ones. -/
def onesAfter (c : Nat) (bs : List Bool) : Nat := bs.foldl (fun c b => if b then c + 1 else 0) c

theorem onesAfter_zero_eq (bs : List Bool) : onesAfter 0 bs = (bs.reverse.takeWhile id).length := by
  induction bs using List.reverseRecOn with
  | nil => rfl
  | append_singleton bs b ih =>
    rw [onesAfter] at ih
    cases b with
    | false => simp [onesAfter]
    | true => simp [onesAfter, ih]

/-- Five ones before some place fill a window of five that ends there. -/
theorem window_of_onesAfter {bs : List Bool} {i : Nat} (hi : i ≤ bs.length) (h : 5 ≤ onesAfter 0 (bs.take i)) :
    5 ≤ i ∧ ((bs.drop (i - 5)).take 5).all id = true := by
  rw [onesAfter_zero_eq] at h
  have hlen := (List.takeWhile_sublist (l := (bs.take i).reverse) id).length_le
  rw [List.length_reverse, List.length_take_of_le hi] at hlen
  have h5 : 5 ≤ i := h.trans hlen
  have hones : ((bs.take i).reverse.take 5).all id = true := by
    rw [← List.takeWhile_append_dropWhile (p := id) (l := (bs.take i).reverse), List.take_append_of_le_length h,
      List.all_eq_true]
    exact fun b hb => List.mem_takeWhile_imp (List.mem_of_mem_take hb)
  refine ⟨h5, ?_⟩
  rwa [List.take_reverse, List.all_reverse, List.length_take_of_le hi, List.drop_take, Nat.sub_sub_self h5] at hones

/-- Bits that never make five ones in a row are not stuffed. -/
theorem stuffBits_append_of_onesAfter {bs : List Bool} {c : Nat} (h : ∀ i ≤ bs.length, onesAfter c (bs.take i) < 5)
    (rest : List Bool) : stuffBits c (bs ++ rest) = bs ++ stuffBits (onesAfter c bs) rest := by
  induction bs generalizing c with
  | nil => rfl
  | cons b bs ih =>
    have hb : (if b then c + 1 else 0) < 5 := h 1 (by simp)
    have hrest := ih (c := if b then c + 1 else 0) fun i hi => h (i + 1) (Nat.succ_le_succ hi)
    rw [List.cons_append, stuffBits_cons, pendingBits, if_neg (by omega), hrest]
    rfl

/-- The ones that went before do not matter when a zero comes before the fifth. -/
theorem stuffBits_of_leading_ones {bs : List Bool} {c c' : Nat} (h : c + (bs.takeWhile id).length < 5)
    (h' : c' + (bs.takeWhile id).length < 5) : stuffBits c bs = stuffBits c' bs := by
  induction bs generalizing c c' with
  | nil => rfl
  | cons b bs ih =>
    cases b with
    | false => rfl
    | true =>
      simp only [List.takeWhile_cons, id, if_true, List.length_cons] at h h'
      rw [stuffBits_cons, stuffBits_cons, if_pos rfl, if_pos rfl, pendingBits, pendingBits, if_neg (by omega),
        if_neg (by omega), ih (c := c + 1) (c' := c' + 1) (by omega) (by omega)]

/-- Under R199's conditions the data's first byte goes out as it is and leaves no count behind. -/
theorem dataStream_of_headerRoundTrips {b0 b1 : Byte} (h : headerRoundTrips b0 b1 = true) (others : List Byte) :
    dataStream (b0 :: b1 :: others) = byteBits b0 ++ stuffBits 0 ((b1 :: others).flatMap byteBits) := by
  simp only [headerRoundTrips, Bool.and_eq_true, decide_eq_true_eq, Bool.not_eq_true', List.any_eq_false,
    List.mem_range] at h
  obtain ⟨⟨-, hwindow⟩, hjoin⟩ := h
  have hrun : ∀ i ≤ (byteBits b0).length, onesAfter 0 ((byteBits b0).take i) < 5 := by
    intro i hi
    by_contra hfive
    obtain ⟨h5, hones⟩ := window_of_onesAfter hi (Nat.not_lt.1 hfive)
    have hi8 : i ≤ 8 := hi
    exact hwindow (i - 5) (by omega) hones
  rw [dataStream, List.flatMap_cons, stuffBits_append_of_onesAfter hrun]
  have hlead : (((b1 :: others).flatMap byteBits).takeWhile id).length = ((byteBits b1).takeWhile id).length := by
    rw [List.flatMap_cons, List.takeWhile_append, if_neg]
    have : (byteBits b1).length = 8 := rfl
    omega
  rw [onesAfter_zero_eq, stuffBits_of_leading_ones (c' := 0) (by omega) (by omega)]

/-! ### The frame, part by part -/

section
variable {m0 : Memory} {base : Word} {frame : List Byte} {ends : Rx → Nat → Prop} {ps : List (Bool × Bool)}

/-- A byte taken in RX_FLAGS_MODE, up to its last bit. -/
theorem RxTakes.flagsByte {x : Byte} (h : ∀ acc l, Assembled x 7 acc →
      RxTakes m0 base frame ends ((x.getLsbD 7, true) :: ps) (.at base .flags 1 7 0 acc l) 1) (acc : Byte) (l : Rx) :
    RxTakes m0 base frame ends (receiving (byteBits x) ++ ps) (.at base .flags 1 0 0 acc l) 1 := by
  have hbit {p : Nat} {qs : List (Bool × Bool)} (hp : p < 7)
      (h : ∀ acc l, Assembled x (p + 1) acc → RxTakes m0 base frame ends qs (.at base .flags 1 (p + 1) 0 acc l) 1)
      (acc : Byte) (l : Rx) (hacc : Assembled x p acc) :
      RxTakes m0 base frame ends ((x.getLsbD p, true) :: qs) (.at base .flags 1 p 0 acc l) 1 :=
    flagsBit (.inl (by omega)) (fun l => h _ l (hacc.next (by omega))) l
  exact hbit (by decide) (hbit (by decide) (hbit (by decide) (hbit (by decide) (hbit (by decide) (hbit (by decide)
    (hbit (by decide) h)))))) acc l (assembled_zero x acc)

/-- A repeated flag. -/
theorem RxTakes.skipFlag (h : ∀ acc l, RxTakes m0 base frame ends ps (.at base .flags 1 0 0 acc l) 1) (acc : Byte)
    (l : Rx) : RxTakes m0 base frame ends (receiving (byteBits 0x7E) ++ ps) (.at base .flags 1 0 0 acc l) 1 :=
  flagsByte (fun _ l hacc => flagsBit (.inr hacc.eq_of_last) (h _) l) acc l

theorem RxTakes.skipFlags (h : ∀ acc l, RxTakes m0 base frame ends ps (.at base .flags 1 0 0 acc l) 1) (n : Nat)
    (acc : Byte) (l : Rx) :
    RxTakes m0 base frame ends (receiving (List.replicate n (byteBits 0x7E)).flatten ++ ps)
      (.at base .flags 1 0 0 acc l) 1 := by
  induction n generalizing acc l with
  | zero => exact h acc l
  | succ n ih =>
    rw [List.replicate_succ, List.flatten_cons, receiving, List.map_append, List.append_assoc]
    exact skipFlag ih acc l

variable (hfits : base.toNat + 276 ≤ 4294967296)
include hfits

/-- The first flag: the window is one only at its last bit, since RX_ACC starts at 0. -/
theorem RxTakes.openingFlag (hopen : frame[0]? = some Config.flag)
    (h : ∀ acc l, RxTakes m0 base frame ends ps (.at base .flags 1 0 0 acc l) 1) (l : Rx) :
    RxTakes m0 base frame ends (receiving (byteBits 0x7E) ++ ps) (.at base .firstFlag 0 0 0 0 l) 0 :=
  hunt (by decide) (hunt (by decide) (hunt (by decide) (hunt (by decide) (hunt (by decide) (hunt (by decide)
    (hunt (by decide) (firstFlag hfits (by decide) hopen (h _)))))))) l

/-- FlagCount's flags: the first is stored, the others are skipped. -/
theorem RxTakes.preamble (v : BitVec 16) (hopen : frame[0]? = some Config.flag)
    (h : ∀ acc l, RxTakes m0 base frame ends ps (.at base .flags 1 0 0 acc l) 1) (l : Rx) :
    RxTakes m0 base frame ends (receiving (flagStream v) ++ ps) (.at base .firstFlag 0 0 0 0 l) 0 := by
  obtain ⟨h1, -⟩ := flagCount_bounds v
  rw [flagStream, ← Nat.sub_add_cancel h1, List.replicate_succ, List.flatten_cons, receiving, List.map_append,
    List.append_assoc]
  exact openingFlag hfits hopen (skipFlags h _) l

/-- The byte that starts the data: its bits are neither counted nor unstuffed. -/
theorem RxTakes.firstDataByte {x : Byte} (hx : frame[1]? = some x) (hne : x ≠ Config.flag)
    (h : ∀ acc l, RxTakes m0 base frame ends ps (.at base .data 2 8 0 acc l) 2) (acc : Byte) (l : Rx) :
    RxTakes m0 base frame ends (receiving (byteBits x) ++ ps) (.at base .flags 1 0 0 acc l) 1 := by
  refine flagsByte (fun acc l hacc => ?_) acc l
  have hlast := hacc.eq_of_last
  exact firstByte hfits rfl (by rwa [hlast]) (by rwa [hlast]) (h _) l

end

/-- The byte that the bit at the head of what is left belongs to. -/
theorem exists_byte_of_drop_eq_cons {bytes : List Byte} {q : Nat} {b : Bool} {bs : List Bool}
    (h : (bytes.flatMap byteBits).drop q = b :: bs) :
    ∃ x, bytes[q / 8]? = some x ∧ x.getLsbD (q % 8) = b ∧ (bytes.flatMap byteBits).drop (q + 1) = bs := by
  have hb : (bytes.flatMap byteBits)[q]? = some b := by rw [← List.head?_drop, h, List.head?_cons]
  rw [getElem?_flatMap_byteBits] at hb
  obtain ⟨x, hx, hbit⟩ := Option.map_eq_some_iff.1 hb
  exact ⟨x, hx, hbit, by rw [← List.tail_drop, h, List.tail_cons]⟩

/-- What a received frame leaves: the engine off at index `n`, the closing flag's, which is stored. -/
def FrameEnded (n : Nat) (r : Rx) (stored : Nat) : Prop := r.mode = .off ∧ r.idx.toNat = n ∧ stored = n + 1

section
variable {m0 : Memory} {base : Word} {frame : List Byte} {ends : Rx → Nat → Prop} {ps : List (Bool × Bool)}

theorem RxTakes.pending {n p c : Nat} {acc : Byte} {bs : List Bool}
    (h : ∀ c < 5, ∀ l, RxTakes m0 base frame ends (receiving (stuffBits c bs) ++ ps) (.at base .data n p c acc l) n)
    (hc : c ≤ 5) (l : Rx) :
    RxTakes m0 base frame ends (receiving (pendingBits c bs) ++ ps) (.at base .data n p c acc l) n := by
  unfold pendingBits
  split
  · subst c
    exact stuffedZero (h 0 (by decide)) l
  · exact h c (by omega) l

variable (hfits : base.toNat + 276 ≤ 4294967296) (hframe : frame.length ≤ 276)
include hfits hframe

/-- The bits of the bytes 1 to L - 2 from bit `q` on, with the bytes before it stored. -/
theorem RxTakes.dataBits {bytes : List Byte} (hbytes : ∀ k x, bytes[k]? = some x → frame[k + 1]? = some x)
    (hend : ∀ c < 5, ∀ acc l, RxTakes m0 base frame ends ps
      (.at base .data (bytes.length + 1) (8 * bytes.length) c acc l) (bytes.length + 1))
    (bs : List Bool) (q : Nat) (hbs : (bytes.flatMap byteBits).drop q = bs) (hq : q ≤ 8 * bytes.length) (c : Nat)
    (hc : c < 5) (acc : Byte) (hacc : ∀ x, bytes[q / 8]? = some x → Assembled x (q % 8) acc) (l : Rx) :
    RxTakes m0 base frame ends (receiving (stuffBits c bs) ++ ps) (.at base .data (q / 8 + 1) q c acc l)
      (q / 8 + 1) := by
  induction bs generalizing q c acc l with
  | nil =>
    have hall := List.drop_eq_nil_iff.1 hbs
    rw [length_flatMap_byteBits] at hall
    obtain rfl : q = 8 * bytes.length := by omega
    rw [Nat.mul_div_cancel_left _ (by decide)]
    exact hend c hc acc l
  | cons b bs ih =>
    obtain ⟨x, hx, rfl, hrest⟩ := exists_byte_of_drop_eq_cons hbs
    obtain ⟨hlt, -⟩ := List.getElem?_eq_some_iff.1 hx
    have hones : (if x.getLsbD (q % 8) then c + 1 else 0) ≤ 5 := by split <;> omega
    have hassembled := hacc x hx
    rw [stuffBits_cons]
    by_cases hlast : q % 8 = 7
    · have hnext : (q + 1) / 8 = q / 8 + 1 := by omega
      have hstart : (q + 1) % 8 = 0 := by omega
      rw [hlast] at hassembled
      have hv : frame[q / 8 + 1]? = some (shiftIn (x.getLsbD (q % 8)) acc) := by
        rw [hlast, hassembled.eq_of_last]
        exact hbytes _ x hx
      refine dataByte hfits hframe hc hlast hv (pending (fun c hc l => ?_) hones) l
      exact hnext ▸ ih (q + 1) hrest (by omega) c hc _ (fun y _ => hstart ▸ assembled_zero y _) l
    · have hnext : (q + 1) / 8 = q / 8 := by omega
      have hmore : (q + 1) % 8 = q % 8 + 1 := by omega
      refine dataBit hc hlast (pending (fun c hc l => ?_) hones) l
      refine hnext ▸ ih (q + 1) hrest (by omega) c hc _ (fun y hy => ?_) l
      rw [hnext, hx, Option.some.injEq] at hy
      rw [hmore, ← hy]
      exact hassembled.next (by omega)

/-- The closing flag, whose seventh bit ends the frame, and any bits after it. -/
theorem RxTakes.closing {n p c : Nat} {acc : Byte} (hc : c < 5) (hp : p % 8 = 0) (hclose : frame[n]? = some Config.flag)
    (bs : List Bool) (l : Rx) :
    RxTakes m0 base frame (FrameEnded n)
      (receiving [false, true, true, true, true, true] ++ (true, false) :: receiving bs)
      (.at base .data n p c acc l) n := by
  have hlast {p : Nat} {acc : Byte} (l : Rx) : RxTakes m0 base frame (FrameEnded n) ((true, false) :: receiving bs)
      (.at base .data n p 5 acc l) n :=
    closingFlag hfits hframe hclose
      (fun r hoff hidx => off hoff fun r' hoff' hidx' => ⟨hoff', (congrArg BitVec.toNat hidx').trans hidx, rfl⟩) l
  exact dataBit hc (by omega) (dataBit (c := 0) (by decide) (by omega) (dataBit (c := 1) (by decide) (by omega)
    (dataBit (c := 2) (by decide) (by omega) (dataBit (c := 3) (by decide) (by omega)
    (dataBit (c := 4) (by decide) (by omega) hlast))))) l

end

/-! ### The whole frame -/

/-- The bytes a frame delivers: its flags and what is between them. -/
def deliveredBytes (bytes : List Byte) : List Byte := Config.flag :: (bytes ++ [Config.flag])

theorem length_deliveredBytes (bytes : List Byte) : (deliveredBytes bytes).length = bytes.length + 2 := by
  simp [deliveredBytes]

theorem getElem?_deliveredBytes_succ {bytes : List Byte} {k : Nat} {x : Byte} (h : bytes[k]? = some x) :
    (deliveredBytes bytes)[k + 1]? = some x := by
  obtain ⟨hk, -⟩ := List.getElem?_eq_some_iff.1 h
  rw [deliveredBytes, List.getElem?_cons_succ, List.getElem?_append_left hk, h]

theorem getElem?_deliveredBytes_last (bytes : List Byte) :
    (deliveredBytes bytes)[bytes.length + 1]? = some Config.flag := by
  simp [deliveredBytes]

/-- The bits of FlagCount's flags after the seventh. -/
def afterClosing (v : BitVec 16) : List Bool :=
  false :: (List.replicate ((flagCount v).toNat - 1) (byteBits 0x7E)).flatten

theorem flagStream_eq_closing (v : BitVec 16) :
    flagStream v = [false, true, true, true, true, true] ++ true :: afterClosing v := by
  obtain ⟨h1, -⟩ := flagCount_bounds v
  rw [flagStream, ← Nat.sub_add_cancel h1, List.replicate_succ, List.flatten_cons]
  rfl

/-- The logical bits of a frame, with what RX_NEXT_BIT returns for each. -/
def frameReceived (pre post : BitVec 16) (bytes : List Byte) : List (Bool × Bool) :=
  receiving (flagStream pre) ++ (receiving (dataStream bytes) ++
    (receiving [false, true, true, true, true, true] ++ (true, false) :: receiving (afterClosing post)))

theorem map_fst_receiving (bs : List Bool) : (receiving bs).map Prod.fst = bs := by
  simp [receiving, Function.comp_def]

theorem map_snd_receiving (bs : List Bool) : (receiving bs).map Prod.snd = List.replicate bs.length true := by
  simp [receiving, Function.comp_def]

theorem map_fst_frameReceived (pre post : BitVec 16) (bytes : List Byte) :
    (frameReceived pre post bytes).map Prod.fst = frameStream pre post bytes := by
  rw [frameStream, flagStream_eq_closing post]
  simp only [frameReceived, List.map_append, List.map_cons, map_fst_receiving, List.append_assoc]

theorem map_ne_range (k j : Nat) :
    (List.range (k + (j + 1))).map (fun i => i != k) = List.replicate k true ++ false :: List.replicate j true := by
  have hbefore : (List.range k).map (fun i => i != k) = List.replicate k true :=
    List.eq_replicate_iff.2 ⟨by simp, by simp +contextual [Nat.ne_of_lt]⟩
  have hafter : (List.range j).map (fun i => k + (i + 1) != k) = List.replicate j true :=
    List.eq_replicate_iff.2 ⟨by simp, by simp +contextual⟩
  rw [List.range_add, List.map_append, hbefore, List.range_succ_eq_map]
  simpa [Function.comp_def] using hafter

/-- The one 0 is returned for the seventh bit of the first postamble flag. -/
theorem map_snd_frameReceived (pre post : BitVec 16) (bytes : List Byte) :
    (frameReceived pre post bytes).map Prod.snd = (List.range (frameReceived pre post bytes).length).map
      (fun k => k != (flagStream pre).length + (dataStream bytes).length + 6) := by
  have hsnd : (frameReceived pre post bytes).map Prod.snd =
      List.replicate ((flagStream pre).length + (dataStream bytes).length + 6) true ++
        false :: List.replicate (afterClosing post).length true := by
    simp only [frameReceived, List.map_append, List.map_cons, map_snd_receiving, ← List.replicate_append_replicate,
      List.append_assoc]
    rfl
  have hlength := congrArg List.length hsnd
  simp only [List.length_map, List.length_append, List.length_cons, List.length_replicate] at hlength
  rw [hsnd, hlength, map_ne_range]

/-- A frame whose first bytes meet R199's conditions is received byte for byte. -/
theorem RxTakes.frame {m0 : Memory} {base : Word} {b0 b1 : Byte} {others : List Byte}
    (hfits : base.toNat + 276 ≤ 4294967296) (hlen : (b0 :: b1 :: others).length + 2 ≤ 276)
    (hheader : headerRoundTrips b0 b1 = true) (pre post : BitVec 16) (l : Rx) :
    RxTakes m0 base (deliveredBytes (b0 :: b1 :: others)) (FrameEnded ((b0 :: b1 :: others).length + 1))
      (frameReceived pre post (b0 :: b1 :: others)) (.at base .firstFlag 0 0 0 0 l) 0 := by
  have hframe := (length_deliveredBytes (b0 :: b1 :: others)).trans_le hlen
  have hne : b0 ≠ Config.flag := by
    simp only [headerRoundTrips, Bool.and_eq_true, bne_iff_ne] at hheader
    exact hheader.1.1
  refine preamble hfits pre rfl (fun acc l => ?_) l
  rw [dataStream_of_headerRoundTrips hheader, receiving, List.map_append, List.append_assoc]
  refine firstDataByte hfits rfl hne (fun acc l => ?_) acc l
  exact dataBits hfits hframe (bytes := b0 :: b1 :: others) (fun _ _ h => getElem?_deliveredBytes_succ h)
    (fun c hc acc l => closing hfits hframe hc (Nat.mul_mod_right ..) (getElem?_deliveredBytes_last _) _ l) _ 8 rfl
    (by simp) 0 (by decide) acc (fun y _ => assembled_zero y acc) l

end Sys2Proof.Machine
end

section
/-!
PROOFS. The loopback (spec/43_rx_engine.md R197): a transmitter and a receiver in step, each line bit of the one fed to
the other, the receiver storing outside the transmitter's buffer.
-/

namespace Sys2Proof.Machine

/-! ### The transmitter beside a memory that changes elsewhere -/

theorem flagStep_keeps_buffer {t x : Tx} {more : Bool} (h : flagStep t = (x, more)) :
    x.base = t.base ∧ x.len = t.len := by
  rcases flagStep_cases t with ⟨-, heq⟩ | ⟨-, -, heq⟩ | ⟨-, -, -, heq⟩ | ⟨-, -, -, heq⟩
  all_goals cases h.symm.trans heq; exact ⟨rfl, rfl⟩

theorem txNextBit_keeps_buffer {bus : Bus} {m : Memory} {post : BitVec 16} {t x : Tx} {more : Bool}
    (h : txNextBit bus m post t = .ok (x, more)) : x.base = t.base ∧ x.len = t.len := by
  rcases txNextBit_ok h with ⟨-, rfl, -⟩ | ⟨-, hflag⟩ | ⟨-, hdata⟩
  · exact ⟨rfl, rfl⟩
  · exact flagStep_keeps_buffer hflag
  · rcases txDataStep_ok hdata with ⟨-, rfl, -⟩ | ⟨-, -, htail⟩ | ⟨-, -, -, y, -, rfl⟩
    · exact ⟨rfl, rfl⟩
    · exact flagStep_keeps_buffer (t := enterTail post t) htail.symm
    · exact ⟨rfl, rfl⟩

/-- TX_NEXT_BIT depends on memory only within the latched buffer. -/
theorem txNextBit_congr {bus : Bus} {m m' : Memory} {post : BitVec 16} {t : Tx}
    (h : ∀ a, t.base.toNat ≤ a → a < t.base.toNat + t.len.toNat → m.read a = m'.read a) :
    txNextBit bus m post t = txNextBit bus m' post t := by
  cases hmode : t.mode with
  | off => rw [txNextBit_off hmode, txNextBit_off hmode]
  | delayFlag => rw [txNextBit_flag (.inl hmode), txNextBit_flag (.inl hmode)]
  | tail => rw [txNextBit_flag (.inr hmode), txNextBit_flag (.inr hmode)]
  | data =>
    rw [txNextBit_data hmode, txNextBit_data hmode]
    by_cases h5 : t.ones = 5
    · rw [txDataStep_stuff h5, txDataStep_stuff h5]
    · by_cases hend : t.len.toNat ≤ t.idx.toNat + 1
      · rw [txDataStep_end h5 hend, txDataStep_end h5 hend]
      · have hread := busRead_congr (bus := bus) (use := .txBit) (h (t.base.toNat + t.idx.toNat) (by omega) (by omega))
        simp only [txDataStep, txCheckStuffing_ne h5, hread]

/-- The step that sends the first bit: the last returns 0, the others 1. -/
theorem TxSends.step {bus : Bus} {m : Memory} {post : BitVec 16} {t : Tx} {b : Bool} {bs : List Bool}
    (h : TxSends bus m post t (b :: bs)) :
    ∃ u more, txNextBit bus m post t = .ok (u, more) ∧ u.lineState = (emitBit b t).lineState ∧
      (bs = [] ∧ more = false ∧ u.mode = .off ∨ more = true ∧ TxSends bus m post u bs) := by
  cases h with
  | last step line off => exact ⟨_, _, step, line, .inl ⟨rfl, rfl, off⟩⟩
  | more step line rest => exact ⟨_, _, step, line, .inr ⟨rfl, rest⟩⟩

/-! ### One pass and all passes -/

theorem InStep.congr {t u : Tx} {r q : Rx} (h : InStep t r) (ht : u.lineState = t.lineState)
    (hr : q.lineState = r.lineState) : InStep u q := by
  obtain ⟨hnrzi, -, hscr⟩ := Tx.lineState_eq_iff.1 ht
  obtain ⟨hq, hqs⟩ := Prod.mk.inj hr
  exact ⟨(hq.trans h.1).trans hnrzi.symm, (hqs.trans h.2).trans hscr.symm⟩

theorem length_txResults {n : Nat} (h : 0 < n) : (txResults n).length = n := by
  simp [txResults, Nat.sub_add_cancel h]

theorem loopRun_succ {s t u : State} (ht : exec .txNextBit s = .next t) (hu : exec (.rxNextBit t.tx.line) t = .next u)
    (n : Nat) : loopRun (n + 1) s = (loopRun n u).map fun p => ((u.resTx, u.resRx) :: p.1, p.2) := by
  simp only [loopRun, ht, hu]

/-- The loopback of the bits a transmitter sends and a receiver in step takes in. -/
theorem TxSends.loopRun_eq {m0 : Memory} {base : Word} {frame : List Byte} {ends : Rx → Nat → Prop} (hwf : m0.wf = true)
    {ps : List (Bool × Bool)} {s : State} {n : Nat} (hsends : TxSends s.bus m0 s.cfgPost s.tx (ps.map Prod.fst))
    (htakes : RxTakes m0 base frame ends ps s.rx n) (hin : InStep s.tx s.rx) (hmem : Stored m0 base frame n s.mem)
    (hapart : s.tx.base.toNat + s.tx.len.toNat ≤ base.toNat ∨ base.toNat + frame.length ≤ s.tx.base.toNat) :
    ∃ u k, loopRun ps.length s = some ((txResults ps.length).zip (ps.map Prod.snd), u) ∧ u.tx.mode = .off ∧
      u.rx.scr = u.tx.scr ∧ ends u.rx k ∧ Stored m0 base frame k u.mem := by
  induction ps generalizing s n with
  | nil => cases hsends
  | cons p ps ih =>
    obtain ⟨b, more⟩ := p
    obtain ⟨x, left, hx, hline, hrest⟩ := hsends.step
    obtain ⟨-, hbit, -⟩ := Tx.lineState_eq_iff.1 hline
    obtain ⟨hbase, hlen⟩ := txNextBit_keeps_buffer hx
    have htx := exec_txNextBit_of_ok
      ((txNextBit_congr fun a ha hlt => hmem.read_outside hwf (by omega)).trans hx)
    obtain ⟨hd, hnext⟩ := decodeBit_line hin b
    obtain ⟨r, k, hstep, hrline, htakes⟩ := htakes _ hd
    obtain ⟨m, hstored, hr⟩ := hstep { s with resTx := left, tx := x } rfl hmem
    rw [← hbit] at hr
    rw [List.length_cons, loopRun_succ htx (exec_rxNextBit_of_ok hr)]
    have hin := hnext.congr hline hrline
    rcases hrest with ⟨hnil, rfl, hoff⟩ | ⟨rfl, hrest⟩
    · obtain rfl := List.map_eq_nil_iff.1 hnil
      exact ⟨_, k, rfl, hoff, hin.2, htakes, hstored⟩
    · have hmore := hrest.length_pos
      rw [List.length_map] at hmore
      obtain ⟨u, j, hrun, hend⟩ := ih (s := { s with resTx := true, tx := x, rx := r, mem := m, resRx := more })
        hrest htakes hin hstored (by simpa only [hbase, hlen] using hapart)
      refine ⟨u, j, ?_, hend⟩
      rw [hrun, txResults_succ hmore]
      rfl

/-- What TX_INIT leaves has a frame to send. -/
theorem txSends_frame {bus : Bus} {m : Memory} {pre post : BitVec 16} {before : Tx} {a : Word} {len : Nat}
    {bytes : List Byte} (hlen : len = bytes.length + 2) (h276 : len ≤ 276)
    (hread : ∀ k x, bytes[k]? = some x → busRead bus .txBit m (a.toNat + 1 + k) = .ok x) :
    TxSends bus m post { before with
      mode := .delayFlag, bitpos := 0, idx := 0, ones := 0, nrzi := true, flagcnt := flagCount pre, base := a,
      len := BitVec.ofNat 9 len } (frameStream pre post bytes) := by
  have hlen9 : (BitVec.ofNat 9 len).toNat = bytes.length + 2 := (Nat.mod_eq_of_lt (by omega)).trans hlen
  have hsends := TxSends.preamble pre (.data (post := post) hlen9 hread)
    { before with idx := 0, ones := 0, nrzi := true }
  simp only [Tx.atFlag, BitVec.ofNat_toNat, BitVec.setWidth_eq] at hsends
  rw [frameStream, List.append_assoc]
  exact hsends

/-- Settles O53: what TX_INIT and RX_INIT leave is in step, the one with the frame's bits to send and the other with them
to take in, and the frame stored is read back. -/
theorem loopbackRoundTrip : Obligations.LoopbackRoundTrip := by
  intro s a r len b0 b1 others before beforeRx bytes hwf htx hrx hscr hlen h276 hafits hrfits hapart hheader hread
    bits last
  have hfst : (frameReceived s.cfgPre s.cfgPost bytes).map Prod.fst = bits := map_fst_frameReceived ..
  have hcount : (frameReceived s.cfgPre s.cfgPost bytes).length = bits.length := by rw [← hfst, List.length_map]
  have hsize : (deliveredBytes bytes).length = len := (length_deliveredBytes bytes).trans hlen.symm
  have hsends : TxSends s.bus s.mem s.cfgPost s.tx ((frameReceived s.cfgPre s.cfgPost bytes).map Prod.fst) := by
    rw [hfst, htx]
    exact txSends_frame hlen h276 hread
  have htakes : RxTakes s.mem r (deliveredBytes bytes) (FrameEnded (bytes.length + 1))
      (frameReceived s.cfgPre s.cfgPost bytes) s.rx 0 := by
    rw [hrx]
    exact RxTakes.frame hrfits (hlen.ge.trans h276) hheader s.cfgPre s.cfgPost { beforeRx with nrzi := true }
  have hin : InStep s.tx s.rx := ⟨by rw [htx, hrx], hscr⟩
  have hseparate : s.tx.base.toNat + s.tx.len.toNat ≤ r.toNat ∨
      r.toNat + (deliveredBytes bytes).length ≤ s.tx.base.toNat := by
    rw [htx, hsize]
    simp only [BitVec.toNat_ofNat, Nat.mod_eq_of_lt (show len < 2 ^ 9 by omega)]
    exact hapart
  obtain ⟨t, k, hrun, htxoff, hscr', ⟨hrxoff, hidx, rfl⟩, hstored⟩ :=
    hsends.loopRun_eq hwf htakes hin (n := 0) rfl hseparate
  have hresults : (txResults bits.length).length = ((frameReceived s.cfgPre s.cfgPost bytes).map Prod.snd).length := by
    rw [length_txResults (hfst ▸ hsends.length_pos), List.length_map, hcount]
  rw [hcount] at hrun
  have hfull : Stored s.mem r (deliveredBytes bytes) (deliveredBytes bytes).length t.mem := by
    rwa [length_deliveredBytes]
  refine ⟨_, t, hrun, ?_, ?_, htxoff, hrxoff, hscr', ?_, ?_, ?_, ?_, ?_⟩
  · exact List.map_fst_zip hresults.le
  · rw [List.map_snd_zip hresults.ge, map_snd_frameReceived, hcount]
  · rw [receivedLength, hidx, hlen]
  · exact hfull.read_frame (k := 0) hwf rfl
  · intro k x hx
    rw [Nat.add_right_comm, Nat.add_assoc]
    exact hfull.read_frame hwf (getElem?_deliveredBytes_succ hx)
  · rw [show r.toNat + len - 1 = r.toNat + (bytes.length + 1) by omega]
    exact hfull.read_frame hwf (getElem?_deliveredBytes_last bytes)
  · intro b hb
    exact hfull.read_outside hwf (by rwa [hsize])

end Sys2Proof.Machine
end

section
/-!
PROOFS. The host's acts (spec/44_host_access.md R220 to R228): where the registers lie, the words they read as, what a
write to each does, and the step that serves an act.
-/

namespace Sys2Proof.Machine

/-! ### The register map -/

/-- R227: no register lies at an offset that is no multiple of 4 or is past the last register. -/
theorem regAt_eq_none {o : BitVec 8} (h : o.toNat % 4 ≠ 0 ∨ 0x50 ≤ o.toNat) : regAt o = none := by
  unfold regAt
  split
  case h_21 => rfl
  all_goals omega

theorem hostReadValue_word {s : State} {o p : BitVec 8} (r : Reg) (hreg : regAt p = some r) (ho : o = p) :
    hostReadValue .word o s = regValue s r := by
  simp only [hostReadValue, ho, hreg]

theorem hostReadValue_word_unmapped {o : BitVec 8} (h : regAt o = none) (s : State) : hostReadValue .word o s = 0 := by
  simp only [hostReadValue, h]

theorem hostWrite_word {s : State} {o p : BitVec 8} {v : Word} (r : Reg) (hreg : regAt p = some r) (ho : o = p) :
    hostWrite .word o v s = regWriteEffect r v s := by
  simp only [hostWrite, ho, hreg]

theorem hostWrite_word_unmapped {o : BitVec 8} (h : regAt o = none) (v : Word) (s : State) :
    hostWrite .word o v s = .next s := by
  simp only [hostWrite, h]

/-- Settles O10: another width selects no register, and neither does a word access at an offset `regAt` has none for. -/
theorem unsupportedAccessesReadZeroAndAreIgnored : Obligations.UnsupportedAccessesReadZeroAndAreIgnored := by
  intro s width o v h
  cases width with
  | word =>
    have hnone : regAt o = none := regAt_eq_none (h.resolve_left (· rfl))
    exact ⟨hostReadValue_word_unmapped hnone s, hostWrite_word_unmapped hnone v s⟩
  | byte | halfword | other => exact ⟨rfl, rfl⟩

/-! ### The words registers read as -/

theorem toNat_zextBit_word (b : Bool) : (zextBit 32 b).toNat = b.toNat := by
  cases b <;> rfl

/-- A field of `n` bits at bit `k` of a word. -/
theorem toNat_field {n : Nat} (x : BitVec n) {k : Nat} (hfits : n + k ≤ 32) :
    (x.setWidth 32 <<< k).toNat = 2 ^ k * x.toNat := by
  have hlt : x.toNat * 2 ^ k < 2 ^ 32 :=
    calc x.toNat * 2 ^ k < 2 ^ n * 2 ^ k := Nat.mul_lt_mul_of_pos_right x.isLt (Nat.two_pow_pos k)
      _ = 2 ^ (n + k) := (pow_add 2 n k).symm
      _ ≤ 2 ^ 32 := Nat.pow_le_pow_right (by omega) hfits
  rw [BitVec.toNat_shiftLeft, BitVec.toNat_setWidth_of_le (by omega), Nat.shiftLeft_eq, Nat.mod_eq_of_lt hlt,
    Nat.mul_comm]

theorem toNat_bitField (b : Bool) {k : Nat} (hfits : 1 + k ≤ 32) : (zextBit 32 b <<< k).toNat = 2 ^ k * b.toNat := by
  rw [zextBit, toNat_field _ hfits, BitVec.toNat_ofBool]

theorem toNat_statusWord (st : Status) :
    (statusWord st).toNat = 4 * st.rxOvf.toNat + 2 * st.argErr.toNat + st.illCmd.toNat := by
  have hillCmd := st.illCmd.toNat_lt
  have hargErr := st.argErr.toNat_lt
  simp only [statusWord, BitVec.toNat_or, Nat.lor_assoc]
  rw [toNat_bitField st.rxOvf (by omega), toNat_bitField st.argErr (by omega), toNat_zextBit_word,
    ← Nat.two_pow_add_eq_or_of_lt (i := 1) (by omega), ← Nat.two_pow_add_eq_or_of_lt (i := 2) (by omega)]
  omega

theorem txModeCode_lt (m : TxMode) : (txModeCode m).toNat < 4 := by cases m <;> decide

theorem rxModeCode_lt (m : RxMode) : (rxModeCode m).toNat < 4 := by cases m <;> decide

/-- Bits 8 to 0, which TX_STAT and RX_STAT lay out alike. -/
theorem lor_lowFields {mode : Nat} (hmode : mode < 4) (nrzi : Bool) (ones bitpos : BitVec 3) :
    2 ^ 8 * nrzi.toNat ||| (2 ^ 5 * ones.toNat ||| (2 ^ 2 * bitpos.toNat ||| mode)) =
      256 * nrzi.toNat + 32 * ones.toNat + 4 * bitpos.toNat + mode := by
  rw [← Nat.two_pow_add_eq_or_of_lt (i := 2) (by omega), ← Nat.two_pow_add_eq_or_of_lt (i := 5) (by omega),
    ← Nat.two_pow_add_eq_or_of_lt (i := 8) (by omega)]
  omega

/-- R32: the fields of TX_STAT lie one above the other. -/
theorem toNat_txStatWord (t : Tx) :
    (txStatWord t).toNat = 65536 * t.idx.toNat + 512 * t.line.toNat + 256 * t.nrzi.toNat + 32 * t.ones.toNat +
      4 * t.bitpos.toNat + (txModeCode t.mode).toNat := by
  have hmode := txModeCode_lt t.mode
  have hline := t.line.toNat_lt
  have hnrzi := t.nrzi.toNat_lt
  simp only [txStatWord, BitVec.toNat_or, Nat.lor_assoc]
  rw [toNat_field t.idx (by omega), toNat_bitField t.line (by omega), toNat_bitField t.nrzi (by omega),
    toNat_field t.ones (by omega), toNat_field t.bitpos (by omega), lor_lowFields hmode,
    ← Nat.two_pow_add_eq_or_of_lt (i := 9) (by omega), ← Nat.two_pow_add_eq_or_of_lt (i := 16) (by omega)]
  omega

/-- R37: the fields of RX_STAT lie one above the other. -/
theorem toNat_rxStatWord (r : Rx) :
    (rxStatWord r).toNat = 65536 * r.idx.toNat + 256 * r.nrzi.toNat + 32 * r.ones.toNat + 4 * r.bitpos.toNat +
      (rxModeCode r.mode).toNat := by
  have hmode := rxModeCode_lt r.mode
  have hnrzi := r.nrzi.toNat_lt
  simp only [rxStatWord, BitVec.toNat_or, Nat.lor_assoc]
  rw [toNat_field r.idx (by omega), toNat_bitField r.nrzi (by omega), toNat_field r.ones (by omega),
    toNat_field r.bitpos (by omega), lor_lowFields hmode, ← Nat.two_pow_add_eq_or_of_lt (i := 16) (by omega)]
  omega

/-- A row of R221's table: the register at offset `p` and its value as a number. -/
theorem toNat_wordRead {s : State} {o p : BitVec 8} {n : Nat} (r : Reg) (hreg : regAt p = some r)
    (hval : (regValue s r).toNat = n) (ho : o = p) : (hostReadValue .word o s).toNat = n := by
  rw [hostReadValue_word r hreg ho, hval]

/-- Settles O9: R221's table row by row. -/
theorem registerReadsReturnTheTable : Obligations.RegisterReadsReturnTheTable := by
  intro s o v
  constructor
  · simp only [List.forall_mem_cons]
    exact ⟨toNat_wordRead .cmd rfl rfl,
      toNat_wordRead .arg0 rfl rfl,
      toNat_wordRead .arg1 rfl rfl,
      toNat_wordRead .arg2 rfl rfl,
      toNat_wordRead .resCore rfl rfl,
      toNat_wordRead .resTx rfl (toNat_zextBit_word _),
      toNat_wordRead .resRx rfl (toNat_zextBit_word _),
      toNat_wordRead .status rfl (toNat_statusWord _),
      toNat_wordRead .cfgPre rfl (BitVec.toNat_setWidth_of_le (by omega)),
      toNat_wordRead .cfgPost rfl (BitVec.toNat_setWidth_of_le (by omega)),
      toNat_wordRead .txStat rfl ((toNat_txStatWord _).trans (by cases s.tx.mode <;> rfl)),
      toNat_wordRead .txFlagcnt rfl (BitVec.toNat_setWidth_of_le (by omega)),
      toNat_wordRead .txScr rfl (BitVec.toNat_setWidth_of_le (by omega)),
      toNat_wordRead .txBase rfl rfl,
      toNat_wordRead .txLen rfl (BitVec.toNat_setWidth_of_le (by omega)),
      toNat_wordRead .rxStat rfl ((toNat_rxStatWord _).trans (by cases s.rx.mode <;> rfl)),
      toNat_wordRead .rxScr rfl (BitVec.toNat_setWidth_of_le (by omega)),
      toNat_wordRead .rxBase rfl rfl,
      toNat_wordRead .rxAcc rfl (BitVec.toNat_setWidth_of_le (by omega)),
      toNat_wordRead .id rfl rfl,
      List.forall_mem_nil _⟩
  · intro ho
    exact congrArg BitVec.toNat (hostReadValue_word_unmapped (regAt_eq_none (.inr ho)) s)

/-! ### Register writes -/

theorem setWidth_sixteen (v : Word) : v.setWidth 16 = BitVec.ofNat 16 (v.toNat % 65536) := by
  apply BitVec.eq_of_toNat_eq
  simp

/-- Settles O11: the effect of the register at each offset, the configuration's low half taken as a number. -/
theorem registerWritesFollowTheTable : Obligations.RegisterWritesFollowTheTable := by
  intro s o v
  rw [← setWidth_sixteen]
  refine ⟨hostWrite_word .arg0 rfl, hostWrite_word .arg1 rfl, hostWrite_word .arg2 rfl, hostWrite_word .cfgPre rfl,
    hostWrite_word .cfgPost rfl, fun hreadOnly => ?_⟩
  fin_cases hreadOnly <;> rfl

theorem not_getLsbD_eq_beq (v : Word) (k : Nat) : (!v.getLsbD k) = (v.toNat / 2 ^ k % 2 == 0) := by
  rw [BitVec.getLsbD, Nat.testBit_eq_decide_div_mod_eq]
  rcases Nat.mod_two_eq_zero_or_one (v.toNat / 2 ^ k) with h | h <;> simp [h]

/-- Settles O12: a 1 in bit k of the value is a remainder of 1. -/
theorem statusWriteOneToClear : Obligations.StatusWriteOneToClear := by
  intro s v
  have h0 := not_getLsbD_eq_beq v 0
  rw [pow_zero, Nat.div_one] at h0
  rw [hostWrite_word .status rfl rfl, regWriteEffect, clearStatus, h0, not_getLsbD_eq_beq v 1, not_getLsbD_eq_beq v 2]
  rfl

/-! ### The step that serves an act -/

theorem hostLoad_held {a : Word} {x : Byte} {s : State} (h : s.mem.read a.toNat = some x) :
    hostLoad a s = .next (returnToHost (x.setWidth 32) s) := by
  simp only [hostLoad, h]

theorem hostLoad_unwritten {a : Word} {s : State} (h : s.mem.read a.toNat = none) :
    hostLoad a s = .fault (.unwrittenRead a.toNat) := by
  simp only [hostLoad, h]

/-- What a register reads as does not depend on the acts still queued. -/
theorem hostReadValue_hostIn (width : AccessWidth) (o : BitVec 8) (s : State) (q : List HostEvent) :
    hostReadValue width o { s with hostIn := q } = hostReadValue width o s := rfl

/-- Settles O7: each act is served as its own definition says. -/
theorem stepServesTheNextAct : Obligations.StepServesTheNextAct := by
  intro s rest width o v a x
  refine ⟨step_nil, fun e => step_cons, step_cons, step_cons, fun t hq ht => ?_, fun hq => ?_, step_cons,
    fun hq hx => ?_, fun hq hnone => ?_, step_cons⟩
  · exact (step_cons hq).trans (onNext_eq_next.2 ⟨t, ht, rfl⟩)
  · rw [step_cons hq, serve, hostReadValue_hostIn]
    rfl
  · rw [BitVec.ofNat_toNat]
    exact (step_cons hq).trans (hostLoad_held hx)
  · exact (step_cons hq).trans (hostLoad_unwritten hnone)

end Sys2Proof.Machine
end

section
/-!
PROOFS. A full receive buffer (spec/60_exceptions.md R243; spec/43_rx_engine.md R191).
-/

namespace Sys2Proof.Machine

section
variable {c : Bool} {s : State}

/-- RxStore finds the buffer full once the engine has taken the bit in, which leaves RX_IDX. -/
theorem rxStore_taken_full {v : Byte} {r : Rx} (hfull : 276 ≤ s.rx.idx.toNat) (hidx : r.idx = s.rx.idx) :
    rxStore v { s with rx := r } = .ok ({ raiseError .rxOvf s with rx := rxReset r }, false) :=
  rxStore_full (s := { s with rx := r }) (hidx ▸ hfull)

/-- The sixth one in a row, with the buffer full. -/
theorem rxNextBit_closingFlag_full (hmode : s.rx.mode = .data) (h5 : s.rx.ones = 5) (hd : decodedBit c s.rx = true)
    (hfull : 276 ≤ s.rx.idx.toNat) :
    rxNextBit c s = .ok ({ raiseError .rxOvf s with rx := rxReset (decodeBit c s.rx) }, true) := by
  simp only [rxNextBit, hmode, rxDataStep, h5, rxCheckedStep, checkUnstuff_one hd, Bool.false_eq_true, if_false,
    if_true, rxStore_taken_full (r := decodeBit c s.rx) hfull rfl, bind, Except.bind]

/-- A data bit that completes a byte, with the buffer full. -/
theorem rxNextBit_dataByte_full (hmode : s.rx.mode = .data) (h5 : s.rx.ones ≠ 5) (hpos : s.rx.bitpos = 7)
    (hfull : 276 ≤ s.rx.idx.toNat) :
    rxNextBit c s = .ok ({ raiseError .rxOvf s with rx := rxReset (decodeBit c s.rx) }, true) := by
  simp only [rxNextBit, hmode, rxDataStep, h5, rxPlainStep, accumulate_eq, decodeBit_acc, decodeBit_bitpos,
    decodeBit_ones, hpos, (bitpos_add_one_eq_zero_iff 7).2, if_true, if_false,
    rxStore_taken_full hfull, decodeBit_idx, Bool.false_eq_true, bind, Except.bind]
  rfl

end

/-- Settles O47: either way RxStore finds no room, and RxReset leaves nothing of the engine but RX_BASE and RX_SCR. -/
theorem rxOverrunResynchronises : Obligations.RxOverrunResynchronises := by
  intro c s hmode hfull hstore
  have hstep : rxNextBit c s = .ok ({ raiseError .rxOvf s with rx := rxReset (decodeBit c s.rx) }, true) := by
    rcases hstore with ⟨h5, hd⟩ | ⟨h5, hpos⟩
    · exact rxNextBit_closingFlag_full hmode h5 hd hfull
    · exact rxNextBit_dataByte_full hmode h5 hpos hfull
  rw [← scramblerShift_eq_ofNat]
  exact exec_rxNextBit_of_ok hstep

end Sys2Proof.Machine
end

section
/-!
PROOFS. What a command does to the state, apart from the state it does it to (spec/60_exceptions.md R240, R254;
spec/10_state.md R50, R51): the registers and bytes that decide it, family by family, and that the two directions'
changes commute.
-/

namespace Sys2Proof.Machine

/-! ### A command's change -/

/-- What a command that goes on does to the state. -/
inductive Change
  /-- it sets ARG_ERR and nothing else (spec/60_exceptions.md R242) -/
  | argErr
  /-- RES_CORE and memory, by the CRC Engine and the Frame Assembler -/
  | core (v : Word) (m : Memory)
  /-- the transmit engine alone, by TX_INIT -/
  | txStart (x : Tx)
  /-- the transmit engine and RES_TX -/
  | tx (x : Tx) (more : Bool)
  /-- the receive engine alone, by RX_INIT -/
  | rxStart (r : Rx)
  /-- the receive engine, RES_RX and memory, and RX_OVF when the buffer is full -/
  | rx (r : Rx) (m : Memory) (overrun more : Bool)

/-- The change made at a state. -/
def Change.apply : Change → State → State
  | .argErr, s => raiseError .argErr s
  | .core v m, s => setResCore v { s with mem := m }
  | .txStart x, s => { s with tx := x }
  | .tx x more, s => setResTx more { s with tx := x }
  | .rxStart r, s => { s with rx := r }
  | .rx r m overrun more, s =>
    setResRx more { s with rx := r, mem := m, status := { s.status with rxOvf := s.status.rxOvf || overrun } }

/-- The changes of the four TX commands. -/
inductive Change.OfTx : Change → Prop
  | argErr : OfTx .argErr
  | start (x : Tx) : OfTx (.txStart x)
  | step (x : Tx) (more : Bool) : OfTx (.tx x more)

/-- The changes of the four RX commands. -/
inductive Change.OfRx : Change → Prop
  | argErr : OfRx .argErr
  | start (r : Rx) : OfRx (.rxStart r)
  | step (r : Rx) (m : Memory) (overrun more : Bool) : OfRx (.rx r m overrun more)

/-! ### The CORE's commands -/

/-- `s` with other values in STATUS and the result registers. -/
def withResults (st : Status) (rc : Word) (rt rr : Bool) (s : State) : State :=
  { s with status := st, resCore := rc, resTx := rt, resRx := rr }

/-- CRC_COMPUTE, CRC_PUT and UI_PREPARE make one change whatever STATUS and the result registers hold. -/
theorem coreCommand_change {i : Instr} {s t : State} (hi : i ∈ [.crcCompute, .crcPut, .uiPrepare])
    (h : exec i s = .next t) : ∃ d : Change, ∀ st rc rt rr,
      exec i (withResults st rc rt rr s) = .next (d.apply (withResults st rc rt rr s)) := by
  simp only [List.mem_cons, List.not_mem_nil, or_false] at hi
  rcases hi with rfl | rfl | rfl
  · rcases exec_crcCompute_next h with ⟨hargs, -⟩ | ⟨hargs, crc, hcrc, -⟩
    · exact ⟨.argErr, fun st rc rt rr => if_neg (Bool.eq_false_iff.1 hargs)⟩
    · refine ⟨.core (crc.setWidth 32) s.mem, fun st rc rt rr => (if_pos hargs).trans ?_⟩
      change finish (frameCrc s.bus s.mem s.arg0.toNat s.arg1.toNat >>= _) = _
      rw [hcrc]
      rfl
  · rcases exec_crcPut_next h with ⟨hargs, -⟩ | ⟨hargs, m, crc, hput, -⟩
    · exact ⟨.argErr, fun st rc rt rr => if_neg (Bool.eq_false_iff.1 hargs)⟩
    · refine ⟨.core (crc.setWidth 32) m, fun st rc rt rr => (if_pos hargs).trans ?_⟩
      change finish (crcPut s.bus s.mem s.arg0.toNat s.arg1.toNat >>= _) = _
      rw [hput]
      rfl
  · rcases exec_uiPrepare_next h with ⟨hargs, -⟩ | ⟨hargs, m, hframe, -⟩
    · exact ⟨.argErr, fun st rc rt rr => if_neg (Bool.eq_false_iff.1 hargs)⟩
    · refine ⟨.core (BitVec.ofNat 32 (frameLength s)) m, fun st rc rt rr => (if_pos hargs).trans ?_⟩
      change finish (assembleFrame s.bus s.mem s.arg0.toNat s.arg1.toNat (infoLength s) >>= _) = _
      rw [hframe]
      rfl

/-! ### The TX commands -/

/-- `s'` agrees with `s` in everything that decides what TX command `i` does: the transmit engine, the operands and the
configuration, the surroundings of the memory port, and the one byte that TX_NEXT_BIT may read. -/
structure TxInputsAgree (i : Instr) (s s' : State) : Prop where
  tx : s'.tx = s.tx
  arg0 : s'.arg0 = s.arg0
  arg1 : s'.arg1 = s.arg1
  cfgPre : s'.cfgPre = s.cfgPre
  cfgPost : s'.cfgPost = s.cfgPost
  bus : s'.bus = s.bus
  byte : i = .txNextBit → s.tx.mode = .data →
    s'.mem.read (s.tx.base.toNat + s.tx.idx.toNat) = s.mem.read (s.tx.base.toNat + s.tx.idx.toNat)

theorem TxInputsAgree.refl (i : Instr) (s : State) : TxInputsAgree i s s :=
  ⟨rfl, rfl, rfl, rfl, rfl, rfl, fun _ _ => rfl⟩

/-- TX_NEXT_BIT depends on memory only at the byte it sends from, and only in TX_DATA_MODE. -/
theorem txNextBit_congr_byte {bus : Bus} {m m' : Memory} {post : BitVec 16} {t : Tx}
    (h : t.mode = .data → m.read (t.base.toNat + t.idx.toNat) = m'.read (t.base.toNat + t.idx.toNat)) :
    txNextBit bus m post t = txNextBit bus m' post t := by
  cases hmode : t.mode with
  | off => rw [txNextBit_off hmode, txNextBit_off hmode]
  | delayFlag => rw [txNextBit_flag (.inl hmode), txNextBit_flag (.inl hmode)]
  | tail => rw [txNextBit_flag (.inr hmode), txNextBit_flag (.inr hmode)]
  | data =>
    have hread := busRead_congr (bus := bus) (use := .txBit) (h hmode)
    rw [txNextBit_data hmode, txNextBit_data hmode]
    by_cases h5 : t.ones = 5
    · rw [txDataStep_stuff h5, txDataStep_stuff h5]
    · simp only [txDataStep, txCheckStuffing_ne h5, hread]

/-- A TX command makes one change wherever its inputs are the same. -/
theorem txCommand_change {i : Instr} {b : Bool} {s t : State}
    (hi : i ∈ [.txInit, .txBit b, .txCheckStuffing, .txNextBit]) (h : exec i s = .next t) :
    ∃ d : Change, d.OfTx ∧ ∀ s', TxInputsAgree i s s' → exec i s' = .next (d.apply s') := by
  simp only [List.mem_cons, List.not_mem_nil, or_false] at hi
  rcases hi with rfl | rfl | rfl | rfl
  · have hsame : ∀ s', TxInputsAgree .txInit s s' → txInitArgsOk s' = txInitArgsOk s := fun s' hs => by
      rw [txInitArgsOk, hs.arg0, hs.arg1, txInitArgsOk]
    rcases exec_txInit_next h with ⟨hargs, -⟩ | ⟨hargs, -⟩
    · exact ⟨.argErr, .argErr, fun s' hs => if_neg (by rw [hsame s' hs, hargs]; nofun)⟩
    · refine ⟨.txStart (txStart s.arg0 s.arg1 s.cfgPre s.tx), .start _, fun s' hs => ?_⟩
      rw [← hs.arg0, ← hs.arg1, ← hs.cfgPre, ← hs.tx]
      exact if_pos ((hsame s' hs).trans hargs)
  · refine ⟨.tx (emitBit b s.tx) (emitBit b s.tx).line, .step .., fun s' hs => ?_⟩
    rw [exec_txBit, hs.tx]
    rfl
  · refine ⟨.tx (txCheckStuffing s.tx).1 (txCheckStuffing s.tx).2, .step .., fun s' hs => ?_⟩
    rw [exec_txCheckStuffing, hs.tx]
    rfl
  · obtain ⟨x, more, hx, -⟩ := exec_txNextBit_next h
    refine ⟨.tx x more, .step x more, fun s' hs => exec_txNextBit_eq (p := (x, more)) ?_⟩
    rw [hs.bus, hs.cfgPost, hs.tx, txNextBit_congr_byte (hs.byte rfl), hx]

/-! ### The RX commands -/

/-- A state with the receive engine and the memory of `s`, and no error. -/
def rxView (s : State) : State := { State.reset with rx := s.rx, mem := s.mem }

/-- What the receiver made of `rxView s`, put into `s`. -/
def graftRx (s : State) (p : State × Bool) : State × Bool :=
  ({ s with
      rx := p.1.rx
      mem := p.1.mem
      status := { s.status with rxOvf := s.status.rxOvf || p.1.status.rxOvf } }, p.2)

theorem rxStore_eq_graftRx (v : Byte) (s : State) (r : Rx) :
    rxStore v { s with rx := r } = (rxStore v { rxView s with rx := r }).map (graftRx s) := by
  by_cases hfull : 276 ≤ r.idx.toNat
  · rw [rxStore_full hfull, rxStore_full hfull]
    simp [Except.map, graftRx, raiseError, rxView]
  · simp only [rxStore, if_neg hfull, bind, Except.bind]
    cases hm : busWrite s.mem (r.base.toNat + r.idx.toNat) v with
    | error f => simp [rxView, hm, Except.map]
    | ok m => simp [rxView, State.reset, hm, Except.map, graftRx]

/-- A step that changes the receive engine alone. -/
theorem graftRx_setRx (s : State) (r : Rx) (more : Bool) :
    graftRx s ({ rxView s with rx := r }, more) = ({ s with rx := r }, more) := by
  simp [graftRx, rxView, State.reset]

/-- Of the state RX_NEXT_BIT takes in the engine and the memory, and for the rest it can only set RX_OVF. -/
theorem rxNextBit_eq_graftRx (c : Bool) (s : State) : rxNextBit c s = (rxNextBit c (rxView s)).map (graftRx s) := by
  have hquiet : ∀ r more, Except.ok (ε := Fault) ({ s with rx := r }, more) =
      (Except.ok ({ rxView s with rx := r }, more)).map (graftRx s) := fun r more =>
    congrArg Except.ok (graftRx_setRx s r more).symm
  have hrx : (rxView s).rx = s.rx := rfl
  cases hmode : s.rx.mode with
  | off =>
    simp only [rxNextBit, hrx, hmode]
    exact hquiet ..
  | firstFlag =>
    simp only [rxNextBit, hrx, hmode, firstFlagStep, rxStore_eq_graftRx _ s]
    split
    · generalize rxStore _ _ = o
      cases o with
      | error f => rfl
      | ok p => rfl
    · exact hquiet ..
  | flags =>
    simp only [rxNextBit, hrx, hmode, flagsStep, rxStore_eq_graftRx _ s]
    split
    · generalize rxStore _ _ = o
      cases o with
      | error f => rfl
      | ok p => rfl
    · exact hquiet ..
  | data =>
    simp only [rxNextBit, hrx, hmode, rxDataStep]
    split
    · simp only [rxCheckedStep, hrx, rxStore_eq_graftRx _ s]
      split
      · exact hquiet ..
      · generalize rxStore _ _ = o
        obtain f | ⟨u, stored⟩ := o
        · rfl
        · cases stored <;> rfl
    · simp only [rxPlainStep, hrx, rxStore_eq_graftRx _ s]
      split
      · generalize rxStore _ _ = o
        obtain f | ⟨u, stored⟩ := o
        · rfl
        · cases stored <;> rfl
      · exact hquiet ..

/-- An RX command makes one change wherever the receive engine, the memory and ARG0 are the same. -/
theorem rxCommand_change {i : Instr} {c : Bool} {s t : State}
    (hi : i ∈ [.rxInit, .rxBit c, .rxCheckStuffing c, .rxNextBit c]) (h : exec i s = .next t) :
    ∃ d : Change, d.OfRx ∧ ∀ s' : State, s'.rx = s.rx → s'.mem = s.mem → s'.arg0 = s.arg0 →
      exec i s' = .next (d.apply s') := by
  have hkept : ∀ (r : Rx) (more : Bool) (s' : State), s'.mem = s.mem →
      setResRx more { s' with rx := r } = (Change.rx r s.mem false more).apply s' := fun r more s' hmem => by
    simp only [Change.apply, Bool.or_false, ← hmem]
  simp only [List.mem_cons, List.not_mem_nil, or_false] at hi
  rcases hi with rfl | rfl | rfl | rfl
  · have hsame : ∀ s' : State, s'.arg0 = s.arg0 → rxInitArgsOk s' = rxInitArgsOk s := fun s' h0 => by
      rw [rxInitArgsOk, h0, rxInitArgsOk]
    rcases exec_rxInit_next h with ⟨hargs, -⟩ | ⟨hargs, -⟩
    · exact ⟨.argErr, .argErr, fun s' _ _ h0 => if_neg (by rw [hsame s' h0, hargs]; nofun)⟩
    · refine ⟨.rxStart { rxReset s.rx with base := s.arg0 }, .start _, fun s' hrx _ h0 => ?_⟩
      rw [← h0, ← hrx]
      exact if_pos ((hsame s' h0).trans hargs)
  · refine ⟨.rx (decodeBit c s.rx) s.mem false (decodedBit c s.rx), .step .., fun s' hrx hmem _ => ?_⟩
    rw [exec_rxBit, hrx, hkept _ _ s' hmem]
  · refine ⟨.rx (checkUnstuff c s.rx).1 s.mem false (checkUnstuff c s.rx).2, .step .., fun s' hrx hmem _ => ?_⟩
    rw [exec_rxCheckStuffing, hrx, hkept _ _ s' hmem]
  · obtain ⟨u, more, hu, -⟩ := exec_rxNextBit_next h
    rw [rxNextBit_eq_graftRx] at hu
    cases hview : rxNextBit c (rxView s) with
    | error f =>
      rw [hview] at hu
      cases hu
    | ok p =>
      refine ⟨.rx p.1.rx p.1.mem p.1.status.rxOvf p.2, .step .., fun s' hrx hmem _ => ?_⟩
      have hsame : rxView s' = rxView s := by rw [rxView, hrx, hmem, rxView]
      have hstep : rxNextBit c s' = .ok (graftRx s' p) := by
        rw [rxNextBit_eq_graftRx, hsame, hview]
        rfl
      exact exec_rxNextBit_eq hstep

/-! ### Every command -/

/-- Every command makes one change whatever STATUS and the result registers hold. -/
theorem exec_change {i : Instr} {s t : State} (h : exec i s = .next t) :
    ∃ d : Change, ∀ st rc rt rr,
      exec i (withResults st rc rt rr s) = .next (d.apply (withResults st rc rt rr s)) := by
  rcases command_families i with hi | ⟨b, hi⟩ | ⟨c, hi⟩
  · exact coreCommand_change hi h
  · obtain ⟨d, -, hd⟩ := txCommand_change hi h
    exact ⟨d, fun st rc rt rr => hd _ ⟨rfl, rfl, rfl, rfl, rfl, rfl, fun _ _ => rfl⟩⟩
  · obtain ⟨d, -, hd⟩ := rxCommand_change hi h
    exact ⟨d, fun st rc rt rr => hd _ rfl rfl rfl⟩

/-- That change is what the command did to the state it ran at. -/
theorem exec_change_self {i : Instr} {s t : State} (h : exec i s = .next t) :
    ∃ d : Change, t = d.apply s ∧
      ∀ st rc rt rr, exec i (withResults st rc rt rr s) = .next (d.apply (withResults st rc rt rr s)) := by
  obtain ⟨d, hd⟩ := exec_change h
  exact ⟨d, Host.Outcome.next.inj (h.symm.trans (hd s.status s.resCore s.resTx s.resRx)), hd⟩

/-- Settles O57, change by change: one sets ARG_ERR, one may set RX_OVF, and the others leave STATUS. -/
theorem statusBitsAreSticky : Obligations.StatusBitsAreSticky := by
  intro s t i h
  obtain ⟨d, rfl, -⟩ := exec_change_self h
  cases d with
  | argErr => exact .inr (.inl rfl)
  | rx r m overrun more =>
    cases overrun with
    | false => simp [Change.apply]
    | true => simp [Change.apply]
  | core | txStart | tx | rxStart => exact .inl rfl

/-- Settles O58: both runs make one change, which sets a result register to its own value or leaves it. -/
theorem resultsAndStatusAreNotInputs : Obligations.ResultsAndStatusAreNotInputs := by
  intro s t i st rc rt rr h
  obtain ⟨d, rfl, hd⟩ := exec_change_self h
  refine ⟨_, hd st rc rt rr, ?_⟩
  cases d <;> simp [Change.apply, withResults]

/-! ### The two directions -/

/-- Neither direction's change touches what the other's does, but for STATUS, where both only set bits. -/
theorem Change.OfTx.apply_comm {d e : Change} (hd : d.OfTx) (he : e.OfRx) (s : State) :
    d.apply (e.apply s) = e.apply (d.apply s) := by
  cases hd <;> cases he <;> rfl

theorem Change.OfTx.keeps_rxInputs {d : Change} (hd : d.OfTx) (s : State) :
    (d.apply s).rx = s.rx ∧ (d.apply s).mem = s.mem ∧ (d.apply s).arg0 = s.arg0 := by
  cases hd <;> exact ⟨rfl, rfl, rfl⟩

theorem Change.OfRx.bus_eq {e : Change} (he : e.OfRx) (s : State) : (e.apply s).bus = s.bus := by
  cases he <;> rfl

/-- Settles O60: neither command's change touches what decides the other's, and the two changes commute. -/
theorem directionsRunIndependently : Obligations.DirectionsRunIndependently := by
  intro s u v b c i j hi hj hwf hdisjoint hu hv
  obtain ⟨d, hdtx, hd⟩ := txCommand_change hi hu
  obtain rfl : u = d.apply s := Host.Outcome.next.inj (hu.symm.trans (hd s (.refl i s)))
  obtain ⟨e, herx, he⟩ := rxCommand_change hj hv
  obtain rfl : v = e.apply (d.apply s) := Host.Outcome.next.inj (hv.symm.trans (he _ rfl rfl rfl))
  obtain ⟨hrx, hmem, harg0⟩ := hdtx.keeps_rxInputs s
  have hw : exec j s = .next (e.apply s) := he s hrx.symm hmem.symm harg0.symm
  obtain ⟨h0, h1, -, -, -, hpre, hpost, htx, hkept, hone, -⟩ := rxCommandsFrame s (e.apply s) j c hj hwf hw
  refine ⟨e.apply s, hw, ?_⟩
  rw [← hdtx.apply_comm herx]
  refine hd _ ⟨htx, h0, h1, hpre, hpost, herx.bus_eq s, fun hnext hdata => ?_⟩
  by_cases hj : j = .rxNextBit c
  · exact hone _ (.inl (hdisjoint hnext hdata hj))
  · exact hkept hj _

end Sys2Proof.Machine
end

section
/-!
PROOFS. Reset between commands and inside one (spec/70_reset_and_hazards.md R270, R273, R284).
-/

namespace Sys2Proof.Machine

/-! ### The memory a cut command leaves -/

theorem Memory.read_cons_self (b : Nat) (v : Byte) (rest : Memory) : Memory.read ((b, v) :: rest) b = some v :=
  if_pos rfl

/-- Past the first cell a read looks in the others, which hold nothing below it. -/
theorem Memory.read_cons_ne {a b : Nat} {v : Byte} {rest : Memory} (hrest : Memory.risingFrom (b + 1) rest = true)
    (hab : a ≠ b) : Memory.read ((b, v) :: rest) a = rest.read a := by
  rw [Memory.read, if_neg hab]
  split
  · exact (Memory.read_below hrest (by omega)).symm
  · rfl

/-- What becomes of a cell of the whole command's memory: it stays, or its address is again as the command found it. -/
theorem cutMemory_cons (tick : Nat) (old : Memory) (b : Nat) (v : Byte) (rest : Memory) :
    cutMemory tick old ((b, v) :: rest) = (b, v) :: cutMemory tick old rest ∨
      (old.read b = none ∧ cutMemory tick old ((b, v) :: rest) = cutMemory tick old rest) ∨
      ∃ w, old.read b = some w ∧ cutMemory tick old ((b, v) :: rest) = (b, w) :: cutMemory tick old rest := by
  rw [cutMemory, List.filterMap_cons]
  by_cases hsame : old.read b = some v
  · rw [if_pos hsame]
    exact .inl rfl
  by_cases hlanded : Config.freeLanded tick b = true
  · rw [if_neg hsame, if_pos hlanded]
    exact .inl rfl
  rw [if_neg hsame, if_neg hlanded]
  cases hold : old.read b with
  | none => exact .inr (.inl ⟨rfl, rfl⟩)
  | some w => exact .inr (.inr ⟨w, rfl, rfl⟩)

/-- Each address reads as before the command or as after the whole of it. -/
theorem read_cutMemory {tick : Nat} {old : Memory} (a : Nat) : ∀ {lo : Nat} {new : Memory},
    Memory.risingFrom lo new = true →
    (cutMemory tick old new).read a = old.read a ∨ (cutMemory tick old new).read a = new.read a
  | _, [], _ => .inr rfl
  | lo, (b, v) :: rest, h => by
    have hrest : Memory.risingFrom (b + 1) rest = true := (Bool.and_eq_true_iff.1 h).2
    have hcut : Memory.risingFrom (b + 1) (cutMemory tick old rest) = true := cutMemory_risingFrom hrest
    by_cases hab : a = b
    · subst hab
      rcases cutMemory_cons tick old a v rest with hcons | ⟨hold, hcons⟩ | ⟨w, hold, hcons⟩
      · exact .inr (by rw [hcons, Memory.read_cons_self, Memory.read_cons_self])
      · exact .inl (by rw [hcons, hold, Memory.read_below hcut (Nat.lt_succ_self a)])
      · exact .inl (by rw [hcons, hold, Memory.read_cons_self])
    · have hskip : (cutMemory tick old ((b, v) :: rest)).read a = (cutMemory tick old rest).read a := by
        rcases cutMemory_cons tick old b v rest with hcons | ⟨-, hcons⟩ | ⟨w, -, hcons⟩
        · rw [hcons, Memory.read_cons_ne hcut hab]
        · rw [hcons]
        · rw [hcons, Memory.read_cons_ne hcut hab]
      rw [hskip, Memory.read_cons_ne hrest hab]
      exact read_cutMemory a hrest

/-- R284: a command word whose issue goes on, cut short. -/
theorem serve_cmdCutByReset {w : Word} {s t : State} (h : issue w s = .next t) :
    serve (.cmdCutByReset w) s = .next (afterCut s t) := onNext_eq_next.2 ⟨t, h, rfl⟩

/-- Settles O15: the bytes are those of the cut memory, and an illegal word has no write to cut. -/
theorem commandCutByResetLandsSomeWrites : Obligations.CommandCutByResetLandsSomeWrites := by
  intro s hwf left
  refine ⟨fun i t ht => ?_, fun w hw => ?_⟩
  · have hissue : issue (encode i) s = .next t := (issue_of_decode (decode_encode i) s).trans ht
    exact ⟨cutMemory s.bus.tick s.mem t.mem, serve_cmdCutByReset hissue, fun a => read_cutMemory a (exec_wf hwf ht)⟩
  · exact ⟨cutMemory s.bus.tick s.mem s.mem, serve_cmdCutByReset (t := raiseError .illCmd s) (issue_illegal hw s),
      fun a => (read_cutMemory a hwf).elim id id⟩

/-! ### The reset event -/

/-- Settles O14: the reset event reaches the listed values from every state, and the state after reset is a case of it. -/
theorem resetGivesTheListedValues : Obligations.ResetGivesTheListedValues := by
  unfold Obligations.ResetGivesTheListedValues
  intro listed
  have hreset : ∀ s, listed (resetCore s) := fun _ => ⟨rfl, rfl, rfl, rfl, rfl, rfl, rfl, rfl, rfl, rfl, rfl⟩
  exact ⟨hreset State.reset, fun s => ⟨resetCore s, rfl, hreset s, rfl⟩⟩

end Sys2Proof.Machine
end
